-- ==== Sys2Proof/Word.lean ====
section
/-! DEFINITION. The byte of the PN532 frame codec and its arithmetic (spec/00_scope.md R9, spec/40_frame_builder.md R113).
Every datum of the block is one byte; indices and lengths are natural numbers and never wrap. -/

namespace Sys2Proof

/-- A byte (R9): 8 bits, no sign. -/
abbrev Byte := BitVec 8

/-- `add8(a, b) = (a + b) mod 256` (R9, R113 (a)): the carry is discarded. -/
def add8 (a b : Byte) : Byte := BitVec.ofNat 8 (a.toNat + b.toNat)

/-- `not8(a) = 255 - a`, the one's complement (R9). -/
def not8 (a : Byte) : Byte := BitVec.ofNat 8 (255 - a.toNat)

/-- `neg8(a) = (256 - a) mod 256`, the two's complement (R9, R113 (c)). -/
def neg8 (a : Byte) : Byte := BitVec.ofNat 8 (256 - a.toNat)

end Sys2Proof
end

