-- ==== Sys2Proof/Config.lean ====
section
/-! DEFINITION. The constants of the block (spec/00_scope.md R8) and its one open parameter. They are fixed in the
hardware: "configuration of the model, not state of the machine" (spec/10_state.md R41). -/

namespace Sys2Proof

namespace Config

/-- `PREAMBLE` (R8, R71). -/
def preamble : Byte := 0x00
/-- The first byte of `START` (R8, R71). -/
def start0 : Byte := 0x00
/-- The second byte of `START` (R8, R71). -/
def start1 : Byte := 0xFF
/-- `TFI_H2D`, the host to device direction byte (R8, R74). -/
def tfiH2D : Byte := 0xD4
/-- `TFI_D2H`, the device to host direction byte (R8, R74). -/
def tfiD2H : Byte := 0xD5
/-- `POSTAMBLE` (R8, R71). -/
def postamble : Byte := 0x00
/-- `CMD_GETFW`, the GetFirmwareVersion code byte (R8, R78). -/
def cmdGetfw : Byte := 0x02
/-- `TAG_GETFW`, the GetFirmwareVersion response tag byte (R8, R78). -/
def tagGetfw : Byte := 0x03
/-- `FRAME_OVERHEAD`: frame bytes that are not command bytes (R8). -/
def frameOverhead : Nat := 8
/-- `CMD_MIN`: the least command length (R8, D5). Being 0 it needs no test. -/
def cmdMin : Nat := 0
/-- `CMD_MAX`: the greatest command length (R8, D6). -/
def cmdMax : Nat := 254
/-- `FW_PLEN_MIN`: the least payload length from which firmware fields are taken (R8, D8). -/
def fwPlenMin : Nat := 4

end Config

/-- The open parameter that a model takes as an argument (R8, D7): `RX_MAX`, the greatest buffer length `DEC`
accepts; `none` is "no bound", the spec's default. -/
structure Params where
  rxMax : Option Nat
  deriving DecidableEq, Repr

/-- The spec's default: no bound (R8). -/
def Params.default : Params := { rxMax := none }

end Sys2Proof
end

