-- ==== Sys2Proof/Machine/Flags.lean ====
section
/-! DEFINITION. The block has no condition codes (spec/10_state.md R35). What stands in their place is here: the running
sum, the two checksums and the one checksum test, whose results are consumed where they are made and stored nowhere
(spec/30_encoding.md R73, R76; spec/40_frame_builder.md R113). -/

namespace Sys2Proof.Machine

/-- `sum8(S)`, the 8-bit running sum (R9): `sum8([]) = 0`, `sum8(S ++ [b]) = add8(sum8(S), b)`. -/
def sum8 (s : List Byte) : Byte := s.foldl add8 0x00

/-- `LCS = neg8(LEN)` (R73; 90_conflicts.md C1: the two's complement). -/
def lcsOf (len : Byte) : Byte := neg8 len

/-- `DCS = neg8(sum8([TFI] ++ PD))` (R76; 90_conflicts.md C2: the two's complement). -/
def dcsOf (tfi : Byte) (pd : List Byte) : Byte := neg8 (sum8 (tfi :: pd))

/-- The test of step 1: `add8(len_byte, lcs) = 0` (R132). -/
def lcsHolds (len lcs : Byte) : Bool := decide (add8 len lcs = 0x00)

end Sys2Proof.Machine
end

