-- ==== Sys2Proof/Syntax.lean ====
section
/-! DEFINITION. The operations and frame kinds of the block: one constructor per row of spec/opcode_table.json
(spec/30_encoding.md R79, R85, R86, R87). -/

namespace Sys2Proof

/-- The nine rows of the table. The operations have no encoding (R85); the frame kinds are the block's encodings
(R79), and a frame constructor's operands are the bytes the kind leaves free. -/
inductive Instr
  /-- `BUILD`: the operation of `ENC`; its operand is a command of any length (R100, R107). -/
  | build (c : List Byte)
  /-- `EMIT`: one micro-step of `ENC` (R111). -/
  | emit
  /-- `PARSE`: the operation of `DEC`; its operand is a buffer of any length (R130, R140). -/
  | parse (b : List Byte)
  /-- `TRY`: one micro-step of `DEC` (R143). -/
  | tryStep
  /-- `GETFW`: the pseudo-operation `BUILD [02]` (R86, R172). -/
  | getfw
  /-- `CMD_FRAME`: the command frame with payload `pd` (R79); `LEN`, `LCS`, `DCS` follow from it. -/
  | cmdFrame (pd : List Byte)
  /-- `GETFW_CMD`: the nine bytes `00 00 FF 02 FE D4 02 2A 00` (R79). -/
  | getfwCmd
  /-- `RSP_FRAME`: a response frame (R79) whose bytes after the `TFI` are `body`: the `LEN - 1` payload bytes and
  the `DCS`, which may have any value. `LEN` is the number of these bytes; it may be 0, and then the frame ends
  with its `TFI` (R81). -/
  | rspFrame (body : List Byte)
  /-- `GETFW_RSP`: the response whose payload begins `03 ic ver rev` (R79); `rest` is what follows through the
  `DCS`, any bytes, at least the `DCS` itself. -/
  | getfwRsp (ic ver rev : Byte) (rest : List Byte)
  deriving DecidableEq, Repr

end Sys2Proof
end

