-- ==== Sys2Proof/WellFormed.lean ====
section
/-! DEFINITION. Which terms of Instr are frames of their kind (spec/30_encoding.md R79). An operation takes every
byte list (R83, R100, R130), so an operation is always well formed; a frame kind that has a special case of its own
(`GETFW_CMD` of `CMD_FRAME`, `GETFW_RSP` of `RSP_FRAME`) leaves that case to it (log 15). -/

namespace Sys2Proof

/-- The bytes after the `TFI` make the frame a `GETFW_RSP` (R79): at least four payload bytes and a `DCS`, the
first being the tag. -/
def isGetfwBody (body : List Byte) : Bool :=
  decide (Config.fwPlenMin + 1 ≤ body.length) && decide (body.head? = some Config.tagGetfw)

/-- Well-formedness (R79). -/
def Instr.wf : Instr → Bool
  | .build _ => true
  | .emit => true
  | .parse _ => true
  | .tryStep => true
  | .getfw => true
  | .cmdFrame pd => decide (pd.length ≤ Config.cmdMax) && decide (pd ≠ [Config.cmdGetfw])
  | .getfwCmd => true
  | .rspFrame body => decide (body.length ≤ 255) && !isGetfwBody body
  | .getfwRsp _ _ _ rest => decide (1 ≤ rest.length) && decide (rest.length ≤ 251)

end Sys2Proof
end

