-- ==== Sys2Proof/Decode.lean ====
section
/-! DEFINITION. The block's encodings: the frame kinds (spec/30_encoding.md R70 to R79), decoded and encoded, and the
textual syntax of program lines (R85, R86), read and written. The operations have no bit encoding (R85). -/

namespace Sys2Proof

open Machine (sum8 lcsOf dcsOf lcsHolds)

/-- Why bytes are no frame of a kind of R79. -/
inductive DecodeError
  /-- The bytes do not begin `00 00 FF`. -/
  | notStart
  /-- Fewer bytes than the header, or than `LEN` says. -/
  | truncated
  /-- `add8(LEN, LCS) != 0`. -/
  | lcs
  /-- A direction byte that is neither `D4` nor `D5` (R74). -/
  | tfi
  /-- A command frame with `LEN = 0` (R79: `LEN >= 1`). -/
  | lenZero
  /-- A command frame with a wrong `DCS`. -/
  | dcs
  /-- A command frame with a wrong `POSTAMBLE`. -/
  | postamble
  deriving DecidableEq, Repr

/-- The decoder's answer: an instruction and the bytes after it, or the reason there is none. -/
inductive Decoded
  | ok (i : Instr) (rest : List Byte)
  | rejected (why : DecodeError)
  deriving DecidableEq, Repr

/-- The command frame kind with this payload (R79): `GETFW_CMD` is the one for `[02]`. -/
def cmdKind (pd : List Byte) : Instr :=
  if pd = [Config.cmdGetfw] then .getfwCmd else .cmdFrame pd

/-- The response frame kind with these bytes after the `TFI` (R79): `GETFW_RSP` needs the tag, three more payload bytes
and the `DCS` position, that is `LEN >= 5`. -/
def rspKind (body : List Byte) : Instr :=
  match body with
  | tag :: ic :: ver :: rev :: dcs :: more =>
    if tag = Config.tagGetfw then .getfwRsp ic ver rev (dcs :: more) else .rspFrame body
  | _ => .rspFrame body

/-- The rest of a command frame after its header: `LEN - 1` payload bytes, `DCS`, `POSTAMBLE` (R79 `CMD_FRAME`). -/
def decodeCmd (len : Byte) (tail : List Byte) : Decoded :=
  if len = 0x00 then .rejected .lenZero
  else
    let pd := tail.take (len.toNat - 1)
    match tail.drop (len.toNat - 1) with
    | dcs :: post :: rest =>
      if dcs ≠ dcsOf Config.tfiH2D pd then .rejected .dcs
      else if post ≠ Config.postamble then .rejected .postamble
      else .ok (cmdKind pd) rest
    | _ => .rejected .truncated

/-- The rest of a response frame after its header: the `LEN` bytes through the `DCS` position must be there; neither the
`DCS` nor the `POSTAMBLE` is examined (R79 `RSP_FRAME`, R80). -/
def decodeRsp (len : Byte) (tail : List Byte) : Decoded :=
  if tail.length < len.toNat then .rejected .truncated
  else .ok (rspKind (tail.take len.toNat)) (tail.drop len.toNat)

/-- The frame kind that stands at the front of these bytes (R79): header `00 00 FF LEN LCS TFI`, then by direction. -/
def decode (bs : List Byte) : Decoded :=
  match bs with
  | p :: s0 :: s1 :: len :: lcs :: tfi :: tail =>
    if p ≠ Config.preamble ∨ s0 ≠ Config.start0 ∨ s1 ≠ Config.start1 then .rejected .notStart
    else if lcsHolds len lcs = false then .rejected .lcs
    else if tfi = Config.tfiH2D then decodeCmd len tail
    else if tfi = Config.tfiD2H then decodeRsp len tail
    else .rejected .tfi
  | _ => .rejected .truncated

/-- The six header bytes (R70) for a frame with `n` bytes counted by `LEN`. -/
def header (tfi : Byte) (n : Nat) : List Byte :=
  [Config.preamble, Config.start0, Config.start1, BitVec.ofNat 8 n, lcsOf (BitVec.ofNat 8 n), tfi]

/-- A whole command frame (R70, R79): header, payload, `DCS`, `POSTAMBLE`. -/
def cmdBytes (pd : List Byte) : List Byte :=
  header Config.tfiH2D (pd.length + 1) ++ pd ++ [dcsOf Config.tfiH2D pd, Config.postamble]

/-- A response frame through its `DCS` position (R70, R79): header and the bytes after the `TFI`. -/
def rspBytes (body : List Byte) : List Byte :=
  header Config.tfiD2H body.length ++ body

/-- The bytes of a frame kind; an operation has none (R85, R87). -/
def encode : Instr → Option (List Byte)
  | .build _ => none
  | .emit => none
  | .parse _ => none
  | .tryStep => none
  | .getfw => none
  | .cmdFrame pd => some (cmdBytes pd)
  | .getfwCmd => some (cmdBytes [Config.cmdGetfw])
  | .rspFrame body => some (rspBytes body)
  | .getfwRsp ic ver rev rest => some (rspBytes (Config.tagGetfw :: ic :: ver :: rev :: rest))

/-- The most bytes a frame has (R70): 262. -/
def maxFrame : Nat := Config.cmdMax + Config.frameOverhead

/-- The bytes of a table word (log 13): bit 0 is the least significant bit of the first byte; every bit from `nbits` on
is 0, up to the longest frame. -/
def tableBytes (nbits w : Nat) : List Byte :=
  (List.range maxFrame).map fun j => BitVec.ofNat 8 ((w % 2 ^ nbits) >>> (8 * j))

/-- The instruction the decoder reads from a table word. -/
def decodeTableWord (nbits w : Nat) : Option Instr :=
  match decode (tableBytes nbits w) with
  | .ok i _ => some i
  | .rejected _ => none

/-! The textual syntax of program lines (R85). -/

/-- The value of a hexadecimal digit, either case (log 16). -/
def hexVal (c : Char) : Option Nat :=
  let n := c.toNat
  if 48 ≤ n ∧ n ≤ 57 then some (n - 48)
  else if 65 ≤ n ∧ n ≤ 70 then some (n - 55)
  else if 97 ≤ n ∧ n ≤ 102 then some (n - 87)
  else none

/-- A hexadecimal digit, as the source writes it. -/
def hexDigit (n : Nat) : Char := Char.ofNat (if n < 10 then 48 + n else 55 + n)

/-- The two digits of a byte (R9: bare pairs). -/
def hexPair (b : Byte) : List Char := [hexDigit (b.toNat / 16), hexDigit (b.toNat % 16)]

/-- The byte of a pair of digits. -/
def pairVal (hi lo : Char) : Option Byte :=
  match hexVal hi, hexVal lo with
  | some h, some l => some (BitVec.ofNat 8 (16 * h + l))
  | _, _ => none

/-- The pairs up to the closing bracket, each followed by a space or the bracket, and what follows the bracket. -/
def readPairs : List Char → Option (List Byte × List Char)
  | [] => none
  | hi :: t =>
    if hi = ']' then some ([], t)
    else if hi = ' ' then readPairs t
    else
      match t with
      | lo :: sep :: u =>
        match pairVal hi lo with
        | none => none
        | some b =>
          if sep = ']' then some ([b], u)
          else if sep = ' ' then (readPairs u).map fun p => (b :: p.1, p.2)
          else none
      | _ => none

/-- The pairs of a byte list, with the closing bracket. -/
def renderPairs : List Byte → List Char
  | [] => [']']
  | [b] => hexPair b ++ [']']
  | b :: c :: t => hexPair b ++ ' ' :: renderPairs (c :: t)

/-- What follows a word, if the text begins with it. -/
def stripWord : List Char → List Char → Option (List Char)
  | [], cs => some cs
  | _ :: _, [] => none
  | w :: ws, c :: cs => if w = c then stripWord ws cs else none

/-- The start of a `BUILD` line. -/
def buildWord : List Char := ['B', 'U', 'I', 'L', 'D', ' ', '[']
/-- The start of a `PARSE` line. -/
def parseWord : List Char := ['P', 'A', 'R', 'S', 'E', ' ', '[']
/-- A `GETFW` line. -/
def getfwWord : List Char := ['G', 'E', 'T', 'F', 'W']

/-- The operand of a line, with nothing but spaces after it. -/
def readOperand (mk : List Byte → Instr) (t : List Char) : Option Instr :=
  match readPairs t with
  | some (bs, r) => if r.all (· == ' ') then some (mk bs) else none
  | none => none

/-- A line without its comment and its leading spaces (R85: a comment is introduced by `;`). -/
def lineBody (cs : List Char) : List Char := (cs.takeWhile (· != ';')).dropWhile (· == ' ')

/-- The operation a program line stands for (R85, R86); `EMIT`, `TRY` and the frames are not written by a program. -/
def readLine (cs : List Char) : Option Instr :=
  match stripWord buildWord (lineBody cs) with
  | some t => readOperand .build t
  | none =>
    match stripWord parseWord (lineBody cs) with
    | some t => readOperand .parse t
    | none =>
      match stripWord getfwWord (lineBody cs) with
      | some t => if t.all (· == ' ') then some .getfw else none
      | none => none

/-- The line of an operation a program may write (R85). -/
def renderLine : Instr → Option (List Char)
  | .build c => some (buildWord ++ renderPairs c)
  | .parse b => some (parseWord ++ renderPairs b)
  | .getfw => some getfwWord
  | .emit => none
  | .tryStep => none
  | .cmdFrame _ => none
  | .getfwCmd => none
  | .rspFrame _ => none
  | .getfwRsp _ _ _ _ => none

/-- A program: its lines in order, blank and comment lines left out; no program if a line cannot be read (R85). -/
def readProgram : List (List Char) → Option (List Instr)
  | [] => some []
  | l :: ls =>
    if lineBody l = [] then readProgram ls
    else
      match readLine l, readProgram ls with
      | some i, some is => some (i :: is)
      | _, _ => none

end Sys2Proof
end

