-- ==== Sys2Proof/Machine/State.lean ====
section
/-! DEFINITION. All the state the spec gives the block (spec/10_state.md R20 to R42), as plain data, the reasons a step
is refused, and the state after reset. `none` in a register or buffer is the spec's own "no value" (R40). -/

namespace Sys2Proof.Machine

/-- `ESTAT`, the status word of `ENC` (R26): `E_IDLE`, `E_BUSY`, `E_DONE`, `E_REFUSED`; no bit encoding (D15). -/
inductive EStat
  | idle
  | busy
  | done
  | refused
  deriving DecidableEq, Repr

/-- `DSTAT`, the status word of `DEC` (R31): `D_IDLE`, `D_BUSY`, `D_FOUND`, `D_NOTFOUND`; no bit encoding (D15). -/
inductive DStat
  | idle
  | busy
  | found
  | notFound
  deriving DecidableEq, Repr

/-- FirmwareInfo (R171): three uninterpreted bytes. -/
structure Firmware where
  ic : Byte
  ver : Byte
  rev : Byte
  deriving DecidableEq, Repr

/-- The six rejection reasons of a candidate (R191). No register holds one. -/
inductive RejectReason
  /-- `RJ_NOSTART`: the offset is no candidate. -/
  | noStart
  /-- `RJ_LCS`: the length checksum fails. -/
  | lcs
  /-- `RJ_TFI`: the direction byte is not `0xD5`. -/
  | tfi
  /-- `RJ_TRUNC`: a byte that is needed lies beyond the buffer. -/
  | trunc
  /-- `RJ_TAG`: no tag, or another tag than `0x03`. -/
  | tag
  /-- `RJ_SHORT`: the tag matches and fewer than four payload bytes follow the `TFI`. -/
  | short
  deriving DecidableEq, Repr

/-- What `Candidate` answers (R138): acceptance with the fields, or a rejection. `unread` marks a read of `RXB` at an
index the buffer does not have; R55 says that it never occurs, and `candidate_ne_unread` (Laws/Parser.lean) proves it
whenever `RXN` is at most the length of `RXB`. -/
inductive Verdict
  | accept (fw : Firmware)
  | reject (why : RejectReason)
  | unread
  deriving DecidableEq, Repr

/-- The two results of `ParseFrame` (R140). -/
inductive ParseResult
  | found (fw : Firmware)
  | notFound
  deriving DecidableEq, Repr

/-- The state of `ENC` (R28). -/
structure Enc where
  /-- `CMD` (R23). -/
  cmd : Option (List Byte)
  /-- `CLEN` (R23). -/
  clen : Option Nat
  /-- `TXF` (R24). -/
  txf : Option (List Byte)
  /-- `ACC` (R25). -/
  acc : Option Byte
  /-- `EIDX` (R27). -/
  eidx : Option Nat
  /-- `ESTAT` (R26). -/
  estat : EStat
  deriving DecidableEq, Repr

/-- The state of `DEC` (R34). -/
structure Dec where
  /-- `RXB` (R30). -/
  rxb : Option (List Byte)
  /-- `RXN` (R30). -/
  rxn : Option Nat
  /-- `SCAN` (R33). -/
  scan : Option Nat
  /-- `FW_IC` (R32). -/
  fwIc : Option Byte
  /-- `FW_VER` (R32). -/
  fwVer : Option Byte
  /-- `FW_REV` (R32). -/
  fwRev : Option Byte
  /-- `DSTAT` (R31). -/
  dstat : DStat
  deriving DecidableEq, Repr

/-- The registers and buffers that can hold no value (R28, R34, R40), by name. -/
inductive Loc
  | cmd
  | clen
  | txf
  | acc
  | eidx
  | rxb
  | rxn
  | scan
  | fwIc
  | fwVer
  | fwRev
  deriving DecidableEq, Repr

/-- One action of `HOST`, or one unit's turn (R7, R173; log 2). No action reads `ACC`, `EIDX`, `SCAN`, `CMD` or `RXB`
(R25, R27, R33, R51). -/
inductive Action
  /-- The program line `BUILD C` (R85), one atomic operation. -/
  | build (c : List Byte)
  /-- The program line `PARSE B` (R85), one atomic operation. -/
  | parse (b : List Byte)
  /-- The program line `GETFW` (R86). -/
  | getfw
  /-- The start action of `BUILD C` alone (R100): the step level. -/
  | startBuild (c : List Byte)
  /-- The start action of `PARSE B` alone (R130): the step level. -/
  | startParse (b : List Byte)
  /-- `ENC` has the turn. -/
  | encTurn
  /-- `DEC` has the turn. -/
  | decTurn
  /-- HOST reads `ESTAT`. -/
  | readEstat
  /-- HOST reads `DSTAT`. -/
  | readDstat
  /-- HOST reads `TXF[k]`. -/
  | readTxf (k : Nat)
  /-- HOST reads the whole of `TXF` in index order (R173 step 2). -/
  | readFrame
  /-- HOST reads `FW_IC`. -/
  | readIc
  /-- HOST reads `FW_VER`. -/
  | readVer
  /-- HOST reads `FW_REV`. -/
  | readRev
  /-- HOST reads `DSTAT` and, if it is `D_FOUND`, the three fields (R173 step 6). -/
  | collect
  /-- A reset (R220). -/
  | reset
  deriving DecidableEq, Repr

/-- Why HOST's action was turned away while the machine goes on. -/
inductive Declined
  /-- `Refuse(CmdTooLong)` (R109, R194). -/
  | cmdTooLong
  /-- The unit is busy: the start has no effect (R225, U6). -/
  | busy
  deriving DecidableEq, Repr

/-- What HOST's latest action was answered with (the model's own record, log 2). -/
inductive Reply
  /-- HOST has not acted yet. -/
  | nothing
  /-- The action was taken. -/
  | accepted
  /-- The action was turned away. -/
  | declined (why : Declined)
  /-- The value of `ESTAT`. -/
  | estat (v : EStat)
  /-- The value of `DSTAT`. -/
  | dstat (v : DStat)
  /-- One byte of `TXF` or one result register. -/
  | byte (b : Byte)
  /-- The content of `TXF`. -/
  | frame (f : List Byte)
  /-- `Found(ic, ver, rev)` (R85). -/
  | found (fw : Firmware)
  /-- `NotFound` (R85, R192). -/
  | notFound
  deriving DecidableEq, Repr

/-- HOST as the model carries it: its coming actions and its latest answer (the model's own fields, log 2). -/
structure HostSide where
  script : List Action
  reply : Reply
  deriving DecidableEq, Repr

/-- The state: the two disjoint units (R21), HOST, and the parameter `RX_MAX`, which no step changes (R41, log 8). -/
structure State where
  enc : Enc
  dec : Dec
  host : HostSide
  params : Params
  deriving DecidableEq, Repr

/-- The block has no fault: "no input and no sequence of host actions makes either unit fault or hang" (spec/93 part 1,
D22, R190). The type is empty, so no one raises one. -/
inductive Fault
  deriving DecidableEq, Repr

/-- Why a step has no result. -/
inductive Refusal
  /-- `exec`: an instruction without a meaning. Safe. No arm uses it. -/
  | notModelled (mnemonic : String)
  /-- A read of a location that holds no value: by HOST (R40, U5), or by a unit in a state the machine cannot be in
  (R40). Safe: the spec gives such a read no result. -/
  | noValue (loc : Loc)
  /-- `EMIT` where `ESTAT` is not `E_BUSY` (R111: "Enabled exactly when"). Safe: no such step exists. -/
  | encNotBusy
  /-- `TRY`, or a frame met by `DEC`, where `DSTAT` is not `D_BUSY` (R143: "Enabled exactly when"). Safe: no such step
  exists. -/
  | decNotBusy
  /-- A read at an index the buffer does not have, or a write to `TXF` that is no append (R10, R55, R56, U7, U8). Safe:
  the spec gives such an access no meaning. HOST can ask for it (`readTxf`); a unit cannot in any state of the machine. -/
  | badIndex (buf : Loc) (k : Nat)
  /-- `PARSE` of a buffer longer than a finite `RX_MAX` (R130, D7, U4). Safe. Never with the default, no bound. -/
  | rxTooLong
  deriving DecidableEq, Repr

/-- A step of this block: three outcomes, of which the fault never occurs. -/
abbrev Out := Host.Outcome State Fault Refusal

/-- `ENC` after reset (R42). -/
def Enc.reset : Enc :=
  { cmd := none, clen := none, txf := none, acc := none, eidx := none, estat := .idle }

/-- `DEC` after reset (R42). -/
def Dec.reset : Dec :=
  { rxb := none, rxn := none, scan := none, fwIc := none, fwVer := none, fwRev := none, dstat := .idle }

/-- The machine right after reset (R42, R220): both units idle, everything else holding no value; HOST has nothing to
do yet (log 2, log 12); `RX_MAX` at its default (R8, log 8). -/
def State.reset : State :=
  { enc := Enc.reset, dec := Dec.reset, host := { script := [], reply := .nothing }, params := Params.default }

end Sys2Proof.Machine
end

