-- ==== Sys2Proof/Machine/Operands.lean ====
section
/-! DEFINITION. The operand forms of the block: one-byte reads and appends on a buffer, the half-open slice, a read of a
register that may hold no value, and the test of `RX_MAX` (spec/00_scope.md R9, R10; spec/20_memory.md R50 to R56). -/

namespace Sys2Proof.Machine

/-- A buffer: one of the three address spaces (R38, R50), byte `k` at index `k` (log 11). -/
abbrev Buffer := List Byte

/-- `MemRead(space, k, 1)`: defined only for `k < len(space)` (R10, R55); no default byte. -/
def memRead (b : Buffer) (k : Nat) : Option Byte := b[k]?

/-- `MemWrite(TXF, k, 1, v)`: defined only for `k = len(TXF)`; an append (R10, R56). -/
def memAppend (b : Buffer) (k : Nat) (v : Byte) : Option Buffer :=
  if k = b.length then some (b ++ [v]) else none

/-- The half-open slice `S[a:b]`; empty when `b <= a` (R9, D20). -/
def slice (s : List Byte) (a b : Nat) : List Byte := (s.drop a).take (b - a)

/-- A read of a location that may hold no value (R40): with a value the machine goes on, without one the read is
refused. -/
def need {α : Type} (loc : Loc) (r : Option α) (k : α → Out) : Out :=
  match r with
  | some v => k v
  | none => .refused (.noValue loc)

/-- A buffer access that R55 and R56 define only for some indices. -/
def needIndex {α : Type} (buf : Loc) (i : Nat) (r : Option α) (k : α → Out) : Out :=
  match r with
  | some v => k v
  | none => .refused (.badIndex buf i)

/-- A read inside `Candidate` (R138). -/
def readByte (b : Buffer) (i : Nat) (k : Byte → Verdict) : Verdict :=
  match memRead b i with
  | some v => k v
  | none => .unread

/-- A buffer of `n` bytes is within `RX_MAX` (R8, R130). -/
def rxFits (p : Params) (n : Nat) : Bool :=
  match p.rxMax with
  | none => true
  | some m => decide (n ≤ m)

/-- A buffer as (address, byte) pairs (R38: indexed from 0). -/
def cellsFrom (a : Nat) : List Byte → List Host.Cell
  | [] => []
  | v :: t => (a, v) :: cellsFrom (a + 1) t

/-- All the cells of a buffer. -/
def cellsOf (b : Buffer) : List Host.Cell := cellsFrom 0 b

/-- The canonical form of a buffer's cells: the addresses are `a`, `a + 1`, ..., without a gap (R50: consecutive indices
are consecutive bytes). An address that is not listed does not exist, so no entry equals a default. -/
def Memory.wfFrom (a : Nat) : List Host.Cell → Bool
  | [] => true
  | c :: t => decide (c.1 = a) && Memory.wfFrom (a + 1) t

/-- Canonical form of a list of cells as one of the block's buffers. -/
def Memory.wf (m : List Host.Cell) : Bool := Memory.wfFrom 0 m

end Sys2Proof.Machine
end

