-- ==== Sys2Proof/Machine/Ops.lean ====
section
/-! DEFINITION. The operations the instructions share: updates of one unit, the two start actions (spec/40 R100,
spec/41 R130), the acceptance and the rejection of a candidate (spec/60 R191, R197). The block's only analogue of an
exception is the rejection; it is "handled in place", so there is no handler, nothing is saved and there is no return
from it (R197, R198). -/

namespace Sys2Proof.Machine

/-- The state with another `ENC`; `DEC`, HOST and the parameter as before (R21). -/
def State.withEnc (s : State) (e : Enc) : State := { s with enc := e }

/-- The state with another `DEC`; `ENC`, HOST and the parameter as before (R21). -/
def State.withDec (s : State) (d : Dec) : State := { s with dec := d }

/-- The state with another answer for HOST. -/
def State.withReply (s : State) (r : Reply) : State := { s with host := { s.host with reply := r } }

/-- The state with other coming actions of HOST. -/
def State.withScript (s : State) (as : List Action) : State := { s with host := { s.host with script := as } }

/-- `ENC` after the start action of an accepted `BUILD C` (R100). -/
def Enc.started (c : List Byte) : Enc :=
  { cmd := some c, clen := some c.length, txf := some [], acc := some 0x00, eidx := some 0, estat := .busy }

/-- `ENC` after a `BUILD` refused with `CmdTooLong` (R100, R109, R194): only `ESTAT` and `TXF` change. -/
def Enc.refuse (e : Enc) : Enc := { e with estat := .refused, txf := none }

/-- `DEC` after the start action of `PARSE B` (R130). -/
def Dec.started (b : List Byte) : Dec :=
  { rxb := some b, rxn := some b.length, scan := some 0, fwIc := none, fwVer := none, fwRev := none, dstat := .busy }

/-- `DEC` after an accepted candidate (R143): the three fields and `D_FOUND`; `SCAN` stays at the frame (R33). -/
def Dec.accept (d : Dec) (fw : Firmware) : Dec :=
  { d with fwIc := some fw.ic, fwVer := some fw.ver, fwRev := some fw.rev, dstat := .found }

/-- `DEC` after an exhausted scan (R143, R192): only `DSTAT` changes. -/
def Dec.exhaust (d : Dec) : Dec := { d with dstat := .notFound }

/-- A start on `ENC` (R100): turned away while `ESTAT = E_BUSY`, without any effect on the operation in progress (R225,
U6); refused with `CmdTooLong` for more than `CMD_MAX` bytes (R109); else `ENC` becomes `e`. -/
def startEnc (c : List Byte) (e : Enc) (s : State) : Out :=
  if s.enc.estat = .busy then .next (s.withReply (.declined .busy))
  else if Config.cmdMax < c.length then .next ((s.withEnc s.enc.refuse).withReply (.declined .cmdTooLong))
  else .next ((s.withEnc e).withReply .accepted)

/-- A start on `DEC` (R130): turned away while `DSTAT = D_BUSY`, without any effect on the operation in progress (R225,
U6); refused for a buffer beyond a finite `RX_MAX`, never cut (R130, D7); else `DEC` becomes `d`. -/
def startDec (b : List Byte) (d : Dec) (s : State) : Out :=
  if s.dec.dstat = .busy then .next (s.withReply (.declined .busy))
  else if rxFits s.params b.length = false then .refused .rxTooLong
  else .next ((s.withDec d).withReply .accepted)

/-- The rejection of the candidate at `i` (R191, R197): its whole effect is `SCAN <- SCAN + 1`; the reason is dropped. -/
def rejectCandidate (i : Nat) (_why : RejectReason) (s : State) : Out :=
  .next (s.withDec { s.dec with scan := some (i + 1) })

/-- The acceptance of a candidate (R143). -/
def acceptCandidate (fw : Firmware) (s : State) : Out := .next (s.withDec (s.dec.accept fw))

/-- What `DEC` does with the verdict on the candidate at `SCAN` (R143). -/
def applyVerdict (v : Verdict) (s : State) : Out :=
  need .scan s.dec.scan fun i =>
    match v with
    | .accept fw => acceptCandidate fw s
    | .reject why => rejectCandidate i why s
    | .unread => .refused (.badIndex .rxb i)

/-- A step of `DEC` is enabled exactly when `DSTAT = D_BUSY` (R143). -/
def whenDecBusy (k : State → Out) (s : State) : Out :=
  if s.dec.dstat = .busy then k s else .refused .decNotBusy

/-- A step of `ENC` is enabled exactly when `ESTAT = E_BUSY` (R111). -/
def whenEncBusy (k : State → Out) (s : State) : Out :=
  if s.enc.estat = .busy then k s else .refused .encNotBusy

end Sys2Proof.Machine
end

