-- ==== Sys2Proof/Machine/Builder.lean ====
section
/-! DEFINITION. The frame encoder `ENC`: `BUILD` (spec/40_frame_builder.md R100 to R110), its micro-step `EMIT` (R111)
and the pseudo-operation `GETFW` (spec/42_transaction.md R172). -/

namespace Sys2Proof.Machine

/-- `BuildFrame(C)` for a command of at most 254 bytes (R107). -/
def buildFrame (c : List Byte) : List Byte :=
  let len : Byte := BitVec.ofNat 8 (c.length + 1)
  let s := c.foldl add8 (add8 0x00 Config.tfiH2D)
  [Config.preamble, Config.start0, Config.start1, len, neg8 len, Config.tfiH2D] ++ c ++ [neg8 s, Config.postamble]

/-- `ENC` after a complete `BUILD C` (R107, R111; spec/95 P1): `ACC` holds the whole sum, `EIDX` the frame's length. -/
def Enc.built (c : List Byte) : Enc :=
  { cmd := some c
    clen := some c.length
    txf := some (buildFrame c)
    acc := some (sum8 (Config.tfiH2D :: c))
    eidx := some (c.length + Config.frameOverhead)
    estat := .done }

/-- The start action of `BUILD C` alone (R100): the step level. -/
def startBuild (c : List Byte) (s : State) : Out := startEnc c (Enc.started c) s

/-- `BUILD C`, the whole operation in one step (R6, R107). -/
def buildOp (c : List Byte) (s : State) : Out := startEnc c (Enc.built c) s

/-- The meaning of `BUILD` (R107). -/
def execBuild (c : List Byte) (s : State) : Out := buildOp c s

/-- The meaning of `GETFW`: `BUILD [02]` (R86, R172). -/
def execGetfw (s : State) : Out := buildOp [Config.cmdGetfw] s

/-- The byte `EMIT` appends at frame offset `k`, and `ACC` after it (R111); nothing beyond the frame's end. -/
def emitByte (cmd : List Byte) (l : Nat) (acc : Byte) (k : Nat) : Option (Byte × Byte) :=
  if k = 0 then some (Config.preamble, acc)
  else if k = 1 then some (Config.start0, acc)
  else if k = 2 then some (Config.start1, acc)
  else if k = 3 then some (BitVec.ofNat 8 (l + 1), acc)
  else if k = 4 then some (neg8 (BitVec.ofNat 8 (l + 1)), acc)
  else if k = 5 then some (Config.tfiH2D, add8 acc Config.tfiH2D)
  else if k ≤ 5 + l then (memRead cmd (k - 6)).map fun b => (b, add8 acc b)
  else if k = 6 + l then some (neg8 acc, acc)
  else if k = 7 + l then some (Config.postamble, acc)
  else none

/-- `ENC` after the `EMIT` step at `k` (R111). -/
def Enc.emitted (e : Enc) (l k : Nat) (acc : Byte) (txf : List Byte) : Enc :=
  { e with txf := some txf, acc := some acc, eidx := some (k + 1), estat := if k = 7 + l then .done else e.estat }

/-- The meaning of `EMIT` (R111). -/
def execEmit (s : State) : Out :=
  whenEncBusy (fun s =>
    need .eidx s.enc.eidx fun k =>
    need .clen s.enc.clen fun l =>
    need .cmd s.enc.cmd fun cmd =>
    need .acc s.enc.acc fun acc =>
    need .txf s.enc.txf fun txf =>
    needIndex .cmd k (emitByte cmd l acc k) fun ba =>
    needIndex .txf k (memAppend txf k ba.1) fun txf' =>
    .next (s.withEnc (s.enc.emitted l k ba.2 txf'))) s

end Sys2Proof.Machine
end

