-- ==== Sys2Proof/Machine/Parser.lean ====
section
/-! DEFINITION. The response parser `DEC`: `Candidate` and its five steps (spec/41_frame_parser.md R131 to R138), `PARSE`
(R130, R139, R140) and its micro-step `TRY` (R143). -/

namespace Sys2Proof.Machine

/-- Step 5 on a payload of `plen` bytes (R136, R137): the tag, then the fields, taken from inside the payload only. -/
def step5 (plen : Nat) (frameData : List Byte) : Verdict :=
  if plen < 1 then .reject .tag
  else readByte frameData 0 fun tag =>
    if tag ≠ Config.tagGetfw then .reject .tag
    else if plen < Config.fwPlenMin then .reject .short
    else readByte frameData 1 fun ic =>
      readByte frameData 2 fun ver =>
      readByte frameData 3 fun rev =>
      .accept { ic := ic, ver := ver, rev := rev }

/-- Steps 2 to 5, the length checksum having passed (R133 to R138). -/
def afterLcs (b : Buffer) (n i : Nat) (len : Byte) : Verdict :=
  if n ≤ i + 5 then .reject .trunc
  else readByte b (i + 5) fun tfi =>
    if tfi ≠ Config.tfiD2H then .reject .tfi
    else if n < i + 6 + len.toNat then .reject .trunc
    else step5 (len.toNat - 1) (slice b (i + 6) (i + 6 + (len.toNat - 1)))

/-- Steps 1 to 5, the start sequence being there (R132 to R138). -/
def afterStart (b : Buffer) (n i : Nat) : Verdict :=
  if n ≤ i + 4 then .reject .trunc
  else readByte b (i + 3) fun len =>
    readByte b (i + 4) fun lcs =>
    if lcsHolds len lcs = false then .reject .lcs
    else afterLcs b n i len

/-- `Candidate(B, N, i)` (R138), test by test in the source's order. -/
def candidate (b : Buffer) (n i : Nat) : Verdict :=
  if n ≤ i + 2 then .reject .noStart
  else readByte b i fun b0 =>
    readByte b (i + 1) fun b1 =>
    readByte b (i + 2) fun b2 =>
    if b0 ≠ Config.preamble ∨ b1 ≠ Config.start0 ∨ b2 ≠ Config.start1 then .reject .noStart
    else afterStart b n i

/-- The scan from offset `i`, at most `fuel` offsets (R139): where it ends, and what it found. -/
def scanFrom (b : Buffer) : Nat → Nat → Nat × ParseResult
  | 0, i => (i, .notFound)
  | fuel + 1, i =>
    match candidate b b.length i with
    | .accept fw => (i, .found fw)
    | .reject _ => scanFrom b fuel (i + 1)
    | .unread => scanFrom b fuel (i + 1)

/-- `ParseFrame(B)` (R140): offsets `0` to `N - 1`, the first acceptance wins. -/
def parseFrame (b : Buffer) : ParseResult := (scanFrom b b.length 0).2

/-- `DEC` after a complete `PARSE B` (R140, R143; spec/95 P1, P2): `SCAN` is where the scan ended. -/
def Dec.parsed (b : List Byte) : Dec :=
  let d := { Dec.started b with scan := some (scanFrom b b.length 0).1 }
  match parseFrame b with
  | .found fw => d.accept fw
  | .notFound => d.exhaust

/-- The start action of `PARSE B` alone (R130): the step level. -/
def startParse (b : List Byte) (s : State) : Out := startDec b (Dec.started b) s

/-- The meaning of `PARSE`, the whole operation in one step (R6, R140). -/
def execParse (b : List Byte) (s : State) : Out := startDec b (Dec.parsed b) s

/-- The meaning of `TRY` (R143). -/
def execTry (s : State) : Out :=
  whenDecBusy (fun s =>
    need .scan s.dec.scan fun i =>
    need .rxn s.dec.rxn fun n =>
    if n ≤ i then .next (s.withDec s.dec.exhaust)
    else need .rxb s.dec.rxb fun b => applyVerdict (candidate b n i) s) s

end Sys2Proof.Machine
end

