-- ==== Sys2Proof/Machine/Frames.lean ====
section
/-! DEFINITION. The frame kinds (spec/30_encoding.md R79) as `DEC` runs them: a frame of the kind stands at `SCAN`, and
the step of `DEC` at that offset accepts it or rejects it (spec/41_frame_parser.md R138, R143; log 3). -/

namespace Sys2Proof.Machine

/-- The verdict on a whole frame whose start sequence, length checksum and length are in order (steps 1 and 3 pass):
step 2 on its direction byte, steps 4 and 5 on its payload, which is all the bytes after the `TFI` but the last. -/
def frameVerdict (tfi : Byte) (body : List Byte) : Verdict :=
  if tfi ≠ Config.tfiD2H then .reject .tfi
  else step5 (body.length - 1) (body.take (body.length - 1))

/-- `DEC` meets a whole frame at `SCAN`. -/
def meetFrame (tfi : Byte) (body : List Byte) (s : State) : Out :=
  whenDecBusy (applyVerdict (frameVerdict tfi body)) s

/-- The meaning of `CMD_FRAME` (R79: "nothing: DEC rejects it at the TFI test"; R115). `ENC` produces it by `BUILD`
(R107). -/
def execCmdFrame (pd : List Byte) (s : State) : Out :=
  meetFrame Config.tfiH2D (pd ++ [dcsOf Config.tfiH2D pd]) s

/-- The meaning of `GETFW_CMD` (R79, R172): a command frame like any other to `DEC`. -/
def execGetfwCmd (s : State) : Out :=
  meetFrame Config.tfiH2D [Config.cmdGetfw, dcsOf Config.tfiH2D [Config.cmdGetfw]] s

/-- The meaning of `RSP_FRAME` (R79: steps 1 to 3 pass, "then step 5 decides"). -/
def execRspFrame (body : List Byte) (s : State) : Out := meetFrame Config.tfiD2H body s

/-- The meaning of `GETFW_RSP` (R79, R138). -/
def execGetfwRsp (ic ver rev : Byte) (rest : List Byte) (s : State) : Out :=
  meetFrame Config.tfiD2H (Config.tagGetfw :: ic :: ver :: rev :: rest) s

end Sys2Proof.Machine
end

