-- ==== Sys2Proof/Machine/Dispatch.lean ====
section
/-! DEFINITION. One arm per row of spec/opcode_table.json. -/

namespace Sys2Proof.Machine

def exec (i : Instr) (s : State) : Host.Outcome State Fault Refusal :=
  match i with
  | .build c => Sys2Proof.Machine.execBuild c s
  | .emit => Sys2Proof.Machine.execEmit s
  | .parse b => Sys2Proof.Machine.execParse b s
  | .tryStep => Sys2Proof.Machine.execTry s
  | .getfw => Sys2Proof.Machine.execGetfw s
  | .cmdFrame pd => Sys2Proof.Machine.execCmdFrame pd s
  | .getfwCmd => Sys2Proof.Machine.execGetfwCmd s
  | .rspFrame body => Sys2Proof.Machine.execRspFrame body s
  | .getfwRsp ic ver rev rest => Sys2Proof.Machine.execGetfwRsp ic ver rev rest s

end Sys2Proof.Machine
end

