-- ==== Sys2Proof/Machine/HostActions.lean ====
section
/-! DEFINITION. What `HOST` can do to the block (spec/00_scope.md R7; spec/42_transaction.md R173; spec/70 R220, R225), and
the turn of a unit: `ENC` emits, `DEC` fetches the frame at `SCAN` (log 2, log 3). -/

namespace Sys2Proof.Machine

/-- The frame kind that stands at `SCAN` in the buffer of a `PARSE` in progress, if one does (R79). -/
def fetchFrame (s : State) : Option Instr :=
  match s.dec.scan, s.dec.rxn, s.dec.rxb with
  | some i, some n, some b =>
    match decode (slice b i n) with
    | .ok j _ => some j
    | .rejected _ => none
  | _, _, _ => none

/-- The turn of `ENC`: an `EMIT` if it is busy (R111), else nothing (R198). -/
def encTurn (s : State) : Out :=
  if s.enc.estat = .busy then exec .emit s else .next s

/-- The turn of `DEC`: if it is busy, the frame at `SCAN` is run, or the `TRY` step where no frame of R79 stands; else
nothing (R198). -/
def decTurn (s : State) : Out :=
  if s.dec.dstat = .busy then
    match fetchFrame s with
    | some i => exec i s
    | none => exec .tryStep s
  else .next s

/-- HOST reads a location that has a value only under a status (R40, R225). -/
def hostRead {α : Type} (ready : Bool) (loc : Loc) (r : Option α) (s : State) (k : α → Reply) : Out :=
  if ready then need loc r fun v => .next (s.withReply (k v)) else .refused (.noValue loc)

/-- HOST reads `TXF[k]` (R24, R40). -/
def readTxf (k : Nat) (s : State) : Out :=
  if s.enc.estat = .done then
    need .txf s.enc.txf fun f => needIndex .txf k (memRead f k) fun v => .next (s.withReply (.byte v))
  else .refused (.noValue .txf)

/-- HOST reads `DSTAT`, and the fields if it is `D_FOUND` (R173 step 6, R192). -/
def collect (s : State) : Out :=
  match s.dec.dstat with
  | .found =>
    need .fwIc s.dec.fwIc fun ic =>
    need .fwVer s.dec.fwVer fun ver =>
    need .fwRev s.dec.fwRev fun rev =>
    .next (s.withReply (.found { ic := ic, ver := ver, rev := rev }))
  | .notFound => .next (s.withReply .notFound)
  | .idle => .next (s.withReply (.dstat .idle))
  | .busy => .next (s.withReply (.dstat .busy))

/-- A reset of the block (R220): both units as R42 says; HOST's script and the parameter are no state of the block. -/
def resetBlock (s : State) : State :=
  (({ s with enc := Enc.reset, dec := Dec.reset }).withReply .accepted)

/-- One action. -/
def act (a : Action) (s : State) : Out :=
  match a with
  | .build c => exec (.build c) s
  | .parse b => exec (.parse b) s
  | .getfw => exec .getfw s
  | .startBuild c => startBuild c s
  | .startParse b => startParse b s
  | .encTurn => encTurn s
  | .decTurn => decTurn s
  | .readEstat => .next (s.withReply (.estat s.enc.estat))
  | .readDstat => .next (s.withReply (.dstat s.dec.dstat))
  | .readTxf k => readTxf k s
  | .readFrame => hostRead (decide (s.enc.estat = .done)) .txf s.enc.txf s .frame
  | .readIc => hostRead (decide (s.dec.dstat = .found)) .fwIc s.dec.fwIc s .byte
  | .readVer => hostRead (decide (s.dec.dstat = .found)) .fwVer s.dec.fwVer s .byte
  | .readRev => hostRead (decide (s.dec.dstat = .found)) .fwRev s.dec.fwRev s .byte
  | .collect => collect s
  | .reset => .next (resetBlock s)

/-- HOST has nothing to do: a busy unit goes on, `ENC` first (log 2); if none is busy, nothing happens (R198). -/
def idleTurn (s : State) : Out :=
  if s.enc.estat = .busy then encTurn s else decTurn s

/-- The action a program line asks for (R85); `EMIT`, `TRY` and the frames are not written by a program. -/
def actionOf : Instr → Option Action
  | .build c => some (.build c)
  | .parse b => some (.parse b)
  | .getfw => some .getfw
  | .emit => none
  | .tryStep => none
  | .cmdFrame _ => none
  | .getfwCmd => none
  | .rspFrame _ => none
  | .getfwRsp _ _ _ _ => none

/-- A program given to HOST (R85): its lines are what HOST does next (log 12). -/
def loadProgram (p : List Instr) (s : State) : State := s.withScript (p.filterMap actionOf)

/-- The transaction of R173 for a transport that delivers `b`, any bytes whatever (R175, U2); steps 2 to 4 happen outside
the block, but for HOST's read of the frame. -/
def transaction (b : List Byte) : List Action := [.getfw, .readFrame, .parse b, .collect]

/-- The state in which `DEC` has the turn and the bytes `bs` are the buffer of a `PARSE` in progress at offset 0. -/
def placeAtScan (bs : List Byte) (s : State) : State :=
  (s.withDec (Dec.started bs)).withScript (.decTurn :: s.host.script)

end Sys2Proof.Machine
end

