-- ==== Sys2Proof/Machine/Step.lean ====
section
/-! DEFINITION. One step of the machine: HOST's next action, or, when it has none, the next step of a busy unit
(log 2). -/

namespace Sys2Proof.Machine

/-- One step. -/
def step (s : State) : Host.Outcome State Fault Refusal :=
  match s.host.script with
  | [] => idleTurn s
  | a :: rest => act a (s.withScript rest)

/-- The state with a table word's bytes at the offset `DEC` looks at next, `DEC` having the turn (log 12, log 13). -/
def State.withFetchWord (s : State) (nbits w : Nat) : State := placeAtScan (tableBytes nbits w) s

end Sys2Proof.Machine
end

