-- ==== Sys2Proof/Safety.lean ====
section
/-! DEFINITION. What claims are stated in: runs of a micro-step, which unit an instruction belongs to, and the invariant of
the machine, that is the states the spec's rules let a run reach (spec/10_state.md R24 to R42). -/

namespace Sys2Proof.Machine

/-- `n` steps of one instruction, stopping where one does not answer a next state (R112, R144). -/
def runMicro : Nat → Instr → State → Out
  | 0, _, s => .next s
  | n + 1, i, s =>
    match exec i s with
    | .next t => runMicro n i t
    | .fault r => .fault r
    | .refused r => .refused r

/-- The instruction is one of `ENC` (`opcode_table.json`, field unit); the others are `DEC`'s, the frames among them
(log 3). -/
def onEnc : Instr → Bool
  | .build _ => true
  | .emit => true
  | .getfw => true
  | .parse _ => false
  | .tryStep => false
  | .cmdFrame _ => false
  | .getfwCmd => false
  | .rspFrame _ => false
  | .getfwRsp _ _ _ _ => false

/-- The instruction is a micro-step of `DEC`: `TRY`, or a frame met at `SCAN`. -/
def isDecMicro : Instr → Bool
  | .build _ => false
  | .emit => false
  | .getfw => false
  | .parse _ => false
  | .tryStep => true
  | .cmdFrame _ => true
  | .getfwCmd => true
  | .rspFrame _ => true
  | .getfwRsp _ _ _ _ => true

/-- The action starts an operation on `ENC`, or resets the block. -/
def startsEnc : Action → Bool
  | .build _ => true
  | .getfw => true
  | .startBuild _ => true
  | .reset => true
  | .parse _ => false
  | .startParse _ => false
  | .encTurn => false
  | .decTurn => false
  | .readEstat => false
  | .readDstat => false
  | .readTxf _ => false
  | .readFrame => false
  | .readIc => false
  | .readVer => false
  | .readRev => false
  | .collect => false

/-- The action starts an operation on `DEC`, or resets the block. -/
def startsDec : Action → Bool
  | .parse _ => true
  | .startParse _ => true
  | .reset => true
  | .build _ => false
  | .getfw => false
  | .startBuild _ => false
  | .encTurn => false
  | .decTurn => false
  | .readEstat => false
  | .readDstat => false
  | .readTxf _ => false
  | .readFrame => false
  | .readIc => false
  | .readVer => false
  | .readRev => false
  | .collect => false

/-- Some reason rejects the candidate at `i` of the whole buffer (R138). -/
def rejectsAt (b : Buffer) (i : Nat) : Prop := ∃ why, candidate b b.length i = .reject why

/-- `ENC` in the middle of `BUILD C`, `k` bytes emitted (R24, R25, R27, R111). -/
def Enc.busyAt (c : List Byte) (k : Nat) : Enc :=
  { cmd := some c
    clen := some c.length
    txf := some ((buildFrame c).take k)
    acc := some (sum8 ((Config.tfiH2D :: c).take (k - 5)))
    eidx := some k
    estat := .busy }

/-- The states of `ENC` that a run can be in (R26, R28): nothing written, an operation under way, a complete frame, or a
refusal that left the rest as it was. -/
def Enc.Inv (e : Enc) : Prop :=
  match e.estat with
  | .idle => e = Enc.reset
  | .busy => ∃ c k, c.length ≤ Config.cmdMax ∧ k < c.length + Config.frameOverhead ∧ e = Enc.busyAt c k
  | .done => ∃ c, c.length ≤ Config.cmdMax ∧ e = Enc.built c
  | .refused => e = Enc.reset.refuse ∨ ∃ c, c.length ≤ Config.cmdMax ∧ e = (Enc.built c).refuse

/-- `DEC` in the middle of `PARSE B`, at offset `i` (R33, R143). -/
def Dec.scanning (b : List Byte) (i : Nat) : Dec := { Dec.started b with scan := some i }

/-- The states of `DEC` that a run can be in (R31, R34): nothing written, a scan under way, all offsets before `SCAN`
rejected; the first accepted offset with its fields; or every offset rejected and no fields. -/
def Dec.Inv (p : Params) (d : Dec) : Prop :=
  match d.dstat with
  | .idle => d = Dec.reset
  | .busy => ∃ b i, rxFits p b.length = true ∧ i ≤ b.length ∧ (∀ j, j < i → rejectsAt b j) ∧ d = Dec.scanning b i
  | .found =>
    ∃ b i fw, rxFits p b.length = true ∧ i < b.length ∧ (∀ j, j < i → rejectsAt b j) ∧
      candidate b b.length i = .accept fw ∧ d = (Dec.scanning b i).accept fw
  | .notFound =>
    ∃ b, rxFits p b.length = true ∧ (∀ j, j < b.length → rejectsAt b j) ∧ d = (Dec.scanning b b.length).exhaust

/-- The invariant of the machine. -/
def State.Inv (s : State) : Prop := s.enc.Inv ∧ s.dec.Inv s.params

end Sys2Proof.Machine
end

