-- ==== Sys2Proof/Certificates/Slice0/Obligations.lean ====
section
/-! DEFINITION. The statements for the provers. Each docstring names the rule of spec/ it rests on and, where a clause is
the model's own choice, the log entry (notes/assumptions). A statement that needs a next state says `∃ t, exec i s = .next t ∧ …`
from hypotheses on the state and the operands alone. -/

open Sys2Proof Sys2Proof.Machine

/-! Reset and arithmetic. -/

/-- R42: after reset both units are idle and everything else holds no value; the first `BUILD` and the first `PARSE` after
reset leave what every later one leaves. That no `PARSE` from reset is refused rests on `RX_MAX` being at its default after
reset (log 8). -/
def Obligations.ResetLeavesUnitsIdleWithoutValues : Prop :=
  State.reset.enc.estat = .idle ∧ State.reset.dec.dstat = .idle ∧
  State.reset.enc.cmd = none ∧ State.reset.enc.clen = none ∧ State.reset.enc.txf = none ∧
  State.reset.enc.acc = none ∧ State.reset.enc.eidx = none ∧
  State.reset.dec.rxb = none ∧ State.reset.dec.rxn = none ∧ State.reset.dec.scan = none ∧
  State.reset.dec.fwIc = none ∧ State.reset.dec.fwVer = none ∧ State.reset.dec.fwRev = none ∧
  (∀ (c : List Byte) (s : State), s.enc.estat ≠ .busy →
    ∃ t u, exec (.build c) State.reset = .next t ∧ exec (.build c) s = .next u ∧
      t.enc.txf = u.enc.txf ∧ t.enc.estat = u.enc.estat) ∧
  (∀ (b : List Byte) (s : State), s.dec.dstat ≠ .busy → rxFits s.params b.length = true →
    ∃ t u, exec (.parse b) State.reset = .next t ∧ exec (.parse b) s = .next u ∧ t.dec = u.dec)

/-- R220: a reset, in whatever state and during whatever operation, leaves the state of R42; an `EMIT` or a `TRY` of the
abandoned operation is no longer enabled. That a reset is an action of HOST's script is the model's choice (log 17). -/
def Obligations.ResetAbandonsOperations : Prop :=
  ∀ (s : State) (rest : List Action), s.host.script = .reset :: rest →
    ∃ t, step s = .next t ∧ t.enc = State.reset.enc ∧ t.dec = State.reset.dec ∧
      exec .emit t = .refused .encNotBusy ∧ exec .tryStep t = .refused .decNotBusy

/-- R113 (a) to (e), with its three examples of wrap-around. -/
def Obligations.ByteArithmeticWrapsModulo256 : Prop :=
  (∀ a b : Byte, (add8 a b).toNat = (a.toNat + b.toNat) % 256) ∧
  (∀ s : List Byte, (sum8 s).toNat = (s.map BitVec.toNat).sum % 256) ∧
  (∀ a : Byte, (neg8 a).toNat = (256 - a.toNat) % 256 ∧ neg8 a = add8 (not8 a) 0x01 ∧ neg8 (neg8 a) = a) ∧
  neg8 0x00 = 0x00 ∧ neg8 0x80 = 0x80 ∧
  (∀ l : Nat, l ≤ 254 → (BitVec.ofNat 8 (l + 1) : Byte).toNat = l + 1) ∧
  (∀ c d : List Byte, c.Perm d → dcsOf 0xD4 c = dcsOf 0xD4 d) ∧
  (sum8 [0xD4, 0xFF] = 0xD3 ∧ dcsOf 0xD4 [0xFF] = 0x2D) ∧
  (sum8 [0xD4, 0x80, 0x80] = 0xD4 ∧ dcsOf 0xD4 [0x80, 0x80] = 0x2C) ∧
  (sum8 [0xD4, 0x2C] = 0x00 ∧ dcsOf 0xD4 [0x2C] = 0x00)

/-- R73, R76: each checksum is the one byte that makes its sum zero. -/
def Obligations.ChecksumsAreTheUniqueComplements : Prop :=
  (∀ len c : Byte, add8 len c = 0x00 ↔ c = lcsOf len) ∧
  (∀ len lcs : Byte, lcsHolds len lcs = true ↔ add8 len lcs = 0x00) ∧
  (∀ (tfi : Byte) (pd : List Byte) (c : Byte), add8 (sum8 (tfi :: pd)) c = 0x00 ↔ c = dcsOf tfi pd)

/-! BUILD and GETFW. -/

/-- R107: `BUILD C` completes with `TXF = BuildFrame(C)` and `E_DONE`, or, for 255 bytes or more, with `E_REFUSED` and
`TXF` holding no value. -/
def Obligations.BuildProducesFrameOrRefuses : Prop :=
  ∀ (c : List Byte) (s : State), s.enc.estat ≠ .busy →
    ∃ t, exec (.build c) s = .next t ∧
      (c.length ≤ 254 →
        t.enc.txf = some ([0x00, 0x00, 0xFF, BitVec.ofNat 8 (c.length + 1), neg8 (BitVec.ofNat 8 (c.length + 1)), 0xD4] ++
          c ++ [neg8 (sum8 (0xD4 :: c)), 0x00]) ∧
        t.enc.estat = .done) ∧
      (255 ≤ c.length → t.enc.txf = none ∧ t.enc.estat = .refused)

/-- The whole state after a `BUILD` that produces a frame or refuses: the hidden registers hold what the last `EMIT` step
leaves there (log 21), a refusal leaves `CMD`, `CLEN`, `ACC`, `EIDX` (log 22), HOST is told (log 2, log 5). -/
def Obligations.BuildLeavesWholeState : Prop :=
  ∀ (c : List Byte) (s : State), s.enc.estat ≠ .busy →
    (c.length ≤ 254 →
      exec (.build c) s = .next
        { s with
          enc :=
            { cmd := some c
              clen := some c.length
              txf := some (buildFrame c)
              acc := some (sum8 (0xD4 :: c))
              eidx := some (c.length + 8)
              estat := .done }
          host := { s.host with reply := .accepted } }) ∧
    (255 ≤ c.length →
      exec (.build c) s = .next
        { s with
          enc := { s.enc with txf := none, estat := .refused }
          host := { s.host with reply := .declined .cmdTooLong } })

/-- R101 to R106: the frame byte by byte. `LEN = L + 1`; `LCS = 256 - LEN`, never zero; `TFI = D4`; byte `6 + j` is
`C[j]`; the `DCS` at `6 + L`, which can be any byte; preamble and start first, postamble last, nothing before and nothing
after. -/
def Obligations.BuiltFrameByteByByte : Prop :=
  (∀ v : Byte, ∃ c : List Byte, c.length ≤ 254 ∧ (buildFrame c)[6 + c.length]? = some v) ∧
  ∀ (c : List Byte) (s : State), s.enc.estat ≠ .busy → c.length ≤ 254 →
    ∃ t f, exec (.build c) s = .next t ∧ t.enc.txf = some f ∧ f.length = c.length + 8 ∧
      f[0]? = some 0x00 ∧ f[1]? = some 0x00 ∧ f[2]? = some 0xFF ∧
      (∃ len : Byte, f[3]? = some len ∧ len.toNat = c.length + 1 ∧
        ∃ lcs : Byte, f[4]? = some lcs ∧ lcs.toNat = 256 - len.toNat ∧ lcs ≠ 0x00) ∧
      f[5]? = some 0xD4 ∧
      (∀ j, j < c.length → memRead f (6 + j) = memRead c j) ∧
      f[6 + c.length]? = some (neg8 (sum8 (0xD4 :: c))) ∧
      f[7 + c.length]? = some 0x00

/-- R114 (a) to (h): the invariants of every built frame. -/
def Obligations.BuiltFrameInvariants : Prop :=
  ∀ (c : List Byte) (s : State), s.enc.estat ≠ .busy → c.length ≤ 254 →
    ∃ t f, exec (.build c) s = .next t ∧ t.enc.txf = some f ∧
      f.length = c.length + 8 ∧
      slice f 0 3 = [0x00, 0x00, 0xFF] ∧
      (∃ len lcs : Byte, f[3]? = some len ∧ f[4]? = some lcs ∧ len.toNat = c.length + 1 ∧ add8 len lcs = 0x00) ∧
      f[5]? = some 0xD4 ∧
      slice f 6 (6 + c.length) = c ∧
      sum8 (slice f 5 (f.length - 1)) = 0x00 ∧
      f[f.length - 1]? = some 0x00

/-- R88: the frames `ENC` can produce are exactly these sequences, distinct commands give distinct frames, and the command
is read back as `TXF[6 : 6 + TXF[3] - 1]`. -/
def Obligations.BuiltFramesDetermineTheCommand : Prop :=
  (∀ f : List Byte,
    (∃ c s t, s.enc.estat ≠ .busy ∧ exec (.build c) s = .next t ∧ t.enc.estat = .done ∧ t.enc.txf = some f) ↔
    ∃ c : List Byte, c.length ≤ 254 ∧
      f = [0x00, 0x00, 0xFF, BitVec.ofNat 8 (c.length + 1), neg8 (BitVec.ofNat 8 (c.length + 1)), 0xD4] ++ c ++
        [neg8 (sum8 (0xD4 :: c)), 0x00]) ∧
  (∀ c d : List Byte, c.length ≤ 254 → d.length ≤ 254 → buildFrame c = buildFrame d → c = d) ∧
  (∀ c : List Byte, c.length ≤ 254 →
    ∃ len : Byte, (buildFrame c)[3]? = some len ∧ slice (buildFrame c) 6 (6 + len.toNat - 1) = c)

/-- R108: the empty command gives the 8-byte frame `00 00 FF 01 FF D4 2C 00`. -/
def Obligations.EmptyCommandIsFramed : Prop :=
  ∀ s : State, s.enc.estat ≠ .busy →
    ∃ t, exec (.build []) s = .next t ∧
      t.enc.txf = some [0x00, 0x00, 0xFF, 0x01, 0xFF, 0xD4, 0x2C, 0x00] ∧ t.enc.estat = .done

/-- R109, R194: a command of 255 bytes or more leaves no frame and `E_REFUSED`; no `EMIT` step becomes enabled (the form of
that stop is log 9); the next `BUILD` clears the refusal. -/
def Obligations.TooLongCommandLeavesNoFrame : Prop :=
  ∀ (c : List Byte) (s : State), s.enc.estat ≠ .busy → 255 ≤ c.length →
    ∃ t, exec (.build c) s = .next t ∧ t.enc.estat = .refused ∧ t.enc.txf = none ∧ t.dec = s.dec ∧
      exec .emit t = .refused .encNotBusy ∧
      ∀ d : List Byte, d.length ≤ 254 → ∃ u, exec (.build d) t = .next u ∧ u.enc.estat = .done

/-- R172, R86: `GETFW` is `BUILD [02]` and yields the nine bytes. -/
def Obligations.GetfwBuildsFirmwareRequest : Prop :=
  ∀ s : State, s.enc.estat ≠ .busy →
    ∃ t, exec .getfw s = .next t ∧ exec (.build [0x02]) s = .next t ∧
      t.enc.txf = some [0x00, 0x00, 0xFF, 0x02, 0xFE, 0xD4, 0x02, 0x2A, 0x00] ∧ t.enc.estat = .done

/-- R110: `BUILD` (and `GETFW`) writes `ENC` and nothing else but HOST's answer, and what it leaves in `TXF` and `ESTAT`
depends on the command alone. -/
def Obligations.BuildIsPure : Prop :=
  (∀ (i : Instr) (s t : State), (i = .getfw ∨ ∃ c, i = .build c) → exec i s = .next t →
    t.dec = s.dec ∧ t.params = s.params ∧ t.host.script = s.host.script) ∧
  (∀ (c : List Byte) (s s' : State), s.enc.estat ≠ .busy → s'.enc.estat ≠ .busy →
    ∃ t t', exec (.build c) s = .next t ∧ exec (.build c) s' = .next t' ∧
      t.enc.txf = t'.enc.txf ∧ t.enc.estat = t'.enc.estat)

/-! The step level of ENC. -/

/-- R100: the start action of `BUILD`; `E_BUSY` is never left by the atomic operation. -/
def Obligations.StartBuildPreparesEncoder : Prop :=
  ∀ (c : List Byte) (s : State), s.enc.estat ≠ .busy →
    ∃ t, startBuild c s = .next t ∧
      (c.length ≤ 254 →
        t.enc = { cmd := some c, clen := some c.length, eidx := some 0, acc := some 0x00, txf := some [], estat := .busy }) ∧
      (255 ≤ c.length → t.enc.estat = .refused ∧ t.enc.txf = none) ∧
      ∃ u, exec (.build c) s = .next u ∧ u.enc.estat ≠ .busy

/-- R111, the pseudocode of `EMIT`: which byte is appended at each offset, what becomes of `ACC`, `EIDX` and `ESTAT`; and
that no `EMIT` is enabled unless `ESTAT = E_BUSY` (the form of the stop is log 9). -/
def Obligations.EmitAppendsNextFrameByte : Prop :=
  (∀ (s : State) (c x : List Byte) (a : Byte) (k : Nat),
    s.enc.estat = .busy → s.enc.cmd = some c → s.enc.clen = some c.length → c.length ≤ 254 → s.enc.acc = some a →
    s.enc.eidx = some k → k ≤ 7 + c.length → s.enc.txf = some x → x.length = k →
    ∃ b a', exec .emit s = .next
        { s with
          enc :=
            { s.enc with
              txf := some (x ++ [b])
              acc := some a'
              eidx := some (k + 1)
              estat := if k = 7 + c.length then .done else .busy } } ∧
      (k = 0 → b = 0x00 ∧ a' = a) ∧
      (k = 1 → b = 0x00 ∧ a' = a) ∧
      (k = 2 → b = 0xFF ∧ a' = a) ∧
      (k = 3 → b = BitVec.ofNat 8 (c.length + 1) ∧ a' = a) ∧
      (k = 4 → b = neg8 (BitVec.ofNat 8 (c.length + 1)) ∧ a' = a) ∧
      (k = 5 → b = 0xD4 ∧ a' = add8 a 0xD4) ∧
      (6 ≤ k → k ≤ 5 + c.length → memRead c (k - 6) = some b ∧ a' = add8 a b) ∧
      (k = 6 + c.length → b = neg8 a ∧ a' = a) ∧
      (k = 7 + c.length → b = 0x00 ∧ a' = a)) ∧
  (∀ s : State, s.enc.estat ≠ .busy → exec .emit s = .refused .encNotBusy)

/-- The frame of `EMIT` (R56, R110, R111): no byte of `TXF` but the appended one changes, `CMD` and `CLEN` stay, and nothing
outside `ENC` changes. -/
def Obligations.EmitChangesOneByteOfTxf : Prop :=
  ∀ s t : State, exec .emit s = .next t →
    t.dec = s.dec ∧ t.host = s.host ∧ t.params = s.params ∧ t.enc.cmd = s.enc.cmd ∧ t.enc.clen = s.enc.clen ∧
      ∃ k x y, s.enc.eidx = some k ∧ s.enc.txf = some x ∧ t.enc.txf = some y ∧
        ∀ a, a ≠ k → memRead y a = memRead x a

/-- R112: the start action and `L + 8` `EMIT` steps are the atomic `BUILD`; before that the machine stays busy with the
frame's first bytes in `TXF` and their sum in `ACC`; after it no `EMIT` is enabled (the form of
that stop is log 9); 255 bytes or more are refused at the start at both levels. What `ACC` and `EIDX` hold after the atomic
operation is log 21. -/
def Obligations.EmitRunRefinesBuild : Prop :=
  (∀ (c : List Byte) (s : State), s.enc.estat ≠ .busy → c.length ≤ 254 →
    ∃ s0, startBuild c s = .next s0 ∧
      (∀ n, n < c.length + 8 →
        ∃ t, runMicro n .emit s0 = .next t ∧ t.enc.estat = .busy ∧ t.enc.eidx = some n ∧
          t.enc.txf = some ((buildFrame c).take n) ∧
          t.enc.acc = some (sum8 ((0xD4 :: c).take (n - 5)))) ∧
      ∃ t, runMicro (c.length + 8) .emit s0 = .next t ∧ exec (.build c) s = .next t ∧
        t.enc.txf = some (buildFrame c) ∧ t.enc.estat = .done ∧ exec .emit t = .refused .encNotBusy) ∧
  (∀ (c : List Byte) (s : State), s.enc.estat ≠ .busy → 255 ≤ c.length →
    ∃ t, startBuild c s = .next t ∧ exec (.build c) s = .next t ∧ t.enc.estat = .refused)

/-! PARSE. -/

/-- R130: the start action of `PARSE` takes the snapshot and clears the results; a buffer within `RX_MAX` is never refused,
one beyond a finite `RX_MAX` is refused outright, at both levels (the form of that stop is log 8). -/
def Obligations.StartParseTakesSnapshot : Prop :=
  (∀ (b : List Byte) (s : State), s.dec.dstat ≠ .busy → rxFits s.params b.length = true →
    ∃ t, startParse b s = .next t ∧ t.enc = s.enc ∧
      t.dec = { rxb := some b, rxn := some b.length, scan := some 0, fwIc := none, fwVer := none, fwRev := none,
                dstat := .busy }) ∧
  (∀ (b : List Byte) (s : State) (m : Nat),
    s.dec.dstat ≠ .busy → s.params.rxMax = some m → m < b.length →
    startParse b s = .refused .rxTooLong ∧ exec (.parse b) s = .refused .rxTooLong) ∧
  (∀ (p : Params) (n : Nat), p.rxMax = none → rxFits p n = true)

/-- R131: an offset is a candidate exactly when `00 00 FF` stands there, and in a run `00 00 00 FF` that is the second
zero. -/
def Obligations.CandidateOffsetsAreStartSequences : Prop :=
  (∀ (b : List Byte) (i : Nat),
    candidate b b.length i ≠ .reject .noStart ↔
      i + 2 < b.length ∧ b[i]? = some 0x00 ∧ b[i + 1]? = some 0x00 ∧ b[i + 2]? = some 0xFF) ∧
  (∀ r : List Byte,
    candidate ([0x00, 0x00, 0x00, 0xFF] ++ r) (4 + r.length) 0 = .reject .noStart ∧
    candidate ([0x00, 0x00, 0x00, 0xFF] ++ r) (4 + r.length) 1 ≠ .reject .noStart)

/-- R138, stated without order: when `Candidate` accepts, and with what; it always accepts or rejects. -/
def Obligations.CandidateAcceptsExactlyWhen : Prop :=
  (∀ (b : List Byte) (i : Nat) (fw : Firmware),
    candidate b b.length i = .accept fw ↔
      i + 11 ≤ b.length ∧ b[i]? = some 0x00 ∧ b[i + 1]? = some 0x00 ∧ b[i + 2]? = some 0xFF ∧
      (∃ len lcs : Byte, b[i + 3]? = some len ∧ b[i + 4]? = some lcs ∧ add8 len lcs = 0x00 ∧ 5 ≤ len.toNat ∧
        i + 6 + len.toNat ≤ b.length) ∧
      b[i + 5]? = some 0xD5 ∧ b[i + 6]? = some 0x03 ∧
      b[i + 7]? = some fw.ic ∧ b[i + 8]? = some fw.ver ∧ b[i + 9]? = some fw.rev) ∧
  (∀ (b : List Byte) (i : Nat),
    (∃ fw, candidate b b.length i = .accept fw) ∨ ∃ why, candidate b b.length i = .reject why)

/-- R138, R132, R133, R134, R136, R137: the start sequence and the five steps in order, each with its reason. -/
def Obligations.CandidateStepsGiveReasons : Prop :=
  (∀ (b : List Byte) (i : Nat),
    (b.length ≤ i + 2 ∨ b[i]? ≠ some 0x00 ∨ b[i + 1]? ≠ some 0x00 ∨ b[i + 2]? ≠ some 0xFF) →
      candidate b b.length i = .reject .noStart) ∧
  ∀ (b : List Byte) (i : Nat),
    b[i]? = some 0x00 → b[i + 1]? = some 0x00 → b[i + 2]? = some 0xFF →
    (b.length ≤ i + 4 → candidate b b.length i = .reject .trunc) ∧
    (∀ len lcs : Byte, b[i + 3]? = some len → b[i + 4]? = some lcs →
      (add8 len lcs ≠ 0x00 → candidate b b.length i = .reject .lcs) ∧
      (add8 len lcs = 0x00 →
        (b.length ≤ i + 5 → candidate b b.length i = .reject .trunc) ∧
        (∀ tfi : Byte, b[i + 5]? = some tfi →
          (tfi ≠ 0xD5 → candidate b b.length i = .reject .tfi) ∧
          (tfi = 0xD5 →
            (b.length < i + 6 + len.toNat → candidate b b.length i = .reject .trunc) ∧
            (i + 6 + len.toNat ≤ b.length →
              (len.toNat ≤ 1 → candidate b b.length i = .reject .tag) ∧
              (2 ≤ len.toNat → b[i + 6]? ≠ some 0x03 → candidate b b.length i = .reject .tag) ∧
              (2 ≤ len.toNat → len.toNat ≤ 4 → b[i + 6]? = some 0x03 → candidate b b.length i = .reject .short) ∧
              (5 ≤ len.toNat → b[i + 6]? = some 0x03 →
                ∃ fw, candidate b b.length i = .accept fw ∧
                  b[i + 7]? = some fw.ic ∧ b[i + 8]? = some fw.ver ∧ b[i + 9]? = some fw.rev))))))

/-- R140, R139: `PARSE B` completes; the accepting offset of lowest index gives the three fields and `D_FOUND`; without one,
`D_NOTFOUND` and no value in the result registers. -/
def Obligations.ParseReportsFirstAcceptance : Prop :=
  ∀ (b : List Byte) (s : State), s.dec.dstat ≠ .busy → rxFits s.params b.length = true →
    ∃ t, exec (.parse b) s = .next t ∧ t.dec.rxb = some b ∧ t.dec.rxn = some b.length ∧
      (∀ i fw, i < b.length → candidate b b.length i = .accept fw → (∀ j, j < i → rejectsAt b j) →
        t.dec.dstat = .found ∧ t.dec.fwIc = some fw.ic ∧ t.dec.fwVer = some fw.ver ∧ t.dec.fwRev = some fw.rev) ∧
      ((∀ j, j < b.length → rejectsAt b j) →
        t.dec.dstat = .notFound ∧ t.dec.fwIc = none ∧ t.dec.fwVer = none ∧ t.dec.fwRev = none)

/-- R141: `PARSE` answers `Found` or `NotFound` for every buffer of every length, never a partial result. -/
def Obligations.ParseIsTotal : Prop :=
  ∀ (b : List Byte) (s : State), s.dec.dstat ≠ .busy → s.params.rxMax = none →
    ∃ t, exec (.parse b) s = .next t ∧
      ((t.dec.dstat = .found ∧ ∃ fw : Firmware, parseFrame b = .found fw ∧
          t.dec.fwIc = some fw.ic ∧ t.dec.fwVer = some fw.ver ∧ t.dec.fwRev = some fw.rev) ∨
       (t.dec.dstat = .notFound ∧ parseFrame b = .notFound ∧
          t.dec.fwIc = none ∧ t.dec.fwVer = none ∧ t.dec.fwRev = none))

/-- R148: `PARSE` writes `DEC` and nothing else but HOST's answer, never changes the bytes of the buffer, and its result
depends on the buffer alone. -/
def Obligations.ParseIsPure : Prop :=
  (∀ (b : List Byte) (s t : State), exec (.parse b) s = .next t →
    t.enc = s.enc ∧ t.params = s.params ∧ t.host.script = s.host.script ∧
    (s.dec.dstat ≠ .busy → t.dec.rxb = some b)) ∧
  (∀ (b : List Byte) (s s' : State), s.dec.dstat ≠ .busy → s'.dec.dstat ≠ .busy →
    rxFits s.params b.length = true → rxFits s'.params b.length = true →
    ∃ t t', exec (.parse b) s = .next t ∧ exec (.parse b) s' = .next t' ∧ t.dec = t'.dec)

/-- R143: the three cases of `TRY`, and that no `TRY` is enabled unless `DSTAT = D_BUSY` (the form of the stop is log 9). -/
def Obligations.TryMovesAcceptsOrExhausts : Prop :=
  (∀ (s : State) (b : List Byte) (i : Nat),
    s.dec.dstat = .busy → s.dec.rxb = some b → s.dec.rxn = some b.length → s.dec.scan = some i →
    (b.length ≤ i → exec .tryStep s = .next { s with dec := { s.dec with dstat := .notFound } }) ∧
    (∀ fw, i < b.length → candidate b b.length i = .accept fw →
      exec .tryStep s = .next
        { s with
          dec := { s.dec with fwIc := some fw.ic, fwVer := some fw.ver, fwRev := some fw.rev, dstat := .found } }) ∧
    (∀ why, i < b.length → candidate b b.length i = .reject why →
      exec .tryStep s = .next { s with dec := { s.dec with scan := some (i + 1) } }) ∧
    ∃ t, exec .tryStep s = .next t) ∧
  (∀ s : State, s.dec.dstat ≠ .busy → exec .tryStep s = .refused .decNotBusy)

/-- R144: the start action and at most `N + 1` `TRY` steps are the atomic `PARSE`; `i0 + 1` steps when `i0` is the first
accepting offset, `N + 1` when there is none; until then `DEC` stays busy and `SCAN` counts the steps.
What `SCAN` holds after the atomic operation is log 21, that the scan runs to the end log 23. -/
def Obligations.TryRunRefinesParse : Prop :=
  ∀ (b : List Byte) (s : State), s.dec.dstat ≠ .busy → rxFits s.params b.length = true →
    ∃ s0 t n, startParse b s = .next s0 ∧ n ≤ b.length ∧
      (∀ m, m ≤ n →
        ∃ u, runMicro m .tryStep s0 = .next u ∧ u.dec.dstat = .busy ∧ u.dec.scan = some m) ∧
      runMicro (n + 1) .tryStep s0 = .next t ∧ exec (.parse b) s = .next t ∧ t.dec.dstat ≠ .busy ∧
      (∀ i fw, i < b.length → candidate b b.length i = .accept fw → (∀ j, j < i → rejectsAt b j) → n = i) ∧
      ((∀ j, j < b.length → rejectsAt b j) → n = b.length)

/-- R145 (a) to (c): no buffer shorter than 11 bytes is accepted, the accepted ones of 11 bytes are
`00 00 FF 05 FB D5 03 ic ver rev xx`, and no offset closer than 11 bytes to the end is accepted. -/
def Obligations.LeastAcceptedBufferIsElevenBytes : Prop :=
  (∀ b : List Byte, b.length < 11 → parseFrame b = .notFound) ∧
  (∀ (b : List Byte) (fw : Firmware), b.length = 11 →
    (parseFrame b = .found fw ↔
      ∃ x : Byte, b = [0x00, 0x00, 0xFF, 0x05, 0xFB, 0xD5, 0x03, fw.ic, fw.ver, fw.rev, x])) ∧
  (∀ (b : List Byte) (j : Nat), b.length < j + 11 → rejectsAt b j)

/-- R146: a candidate sees only the distance to the end and the ten bytes from its offset; so leading bytes shift it, and a
frame behind noise is found when no earlier offset accepts, for which it is enough that no offset of the noise holds
`00 00 FF`, two bytes that add to zero, and `D5`. -/
def Obligations.CandidateIsLocalAndShifts : Prop :=
  (∀ (b b' : List Byte) (i i' : Nat), i ≤ b.length → i' ≤ b'.length → b.length - i = b'.length - i' →
    (∀ k, k < 10 → b[i + k]? = b'[i' + k]?) → candidate b b.length i = candidate b' b'.length i') ∧
  (∀ (g b : List Byte) (i : Nat),
    candidate (g ++ b) (g.length + b.length) (g.length + i) = candidate b b.length i) ∧
  (∀ (g b : List Byte) (fw : Firmware), candidate b b.length 0 = .accept fw →
    (∀ j, j < g.length → rejectsAt (g ++ b) j) → parseFrame (g ++ b) = .found fw) ∧
  (∀ (g b : List Byte) (fw : Firmware), candidate b b.length 0 = .accept fw →
    (∀ j, j < g.length → ∀ len lcs : Byte, add8 len lcs = 0x00 →
      slice (g ++ b) j (j + 6) ≠ [0x00, 0x00, 0xFF, len, lcs, 0xD5]) → parseFrame (g ++ b) = .found fw)

/-- R147 at the level of a candidate that passes steps 1 and 2: step 3 depends on the length alone, also for a frame that
lacks its `DCS` or only its postamble (90_conflicts.md C5); more bytes keep an acceptance; a found buffer stays found. -/
def Obligations.TruncationAndExtensionOfBuffers : Prop :=
  (∀ (b : List Byte) (i : Nat) (len lcs : Byte),
    slice b i (i + 6) = [0x00, 0x00, 0xFF, len, lcs, 0xD5] → add8 len lcs = 0x00 →
    (b.length ≤ i + 5 + len.toNat → candidate b b.length i = .reject .trunc) ∧
    (i + 6 + len.toNat ≤ b.length → candidate b b.length i ≠ .reject .trunc)) ∧
  (∀ (b e : List Byte) (i : Nat) (fw : Firmware), candidate b b.length i = .accept fw →
    candidate (b ++ e) (b ++ e).length i = .accept fw) ∧
  (∀ (b e : List Byte) (fw : Firmware), parseFrame b = .found fw → ∃ fw', parseFrame (b ++ e) = .found fw') ∧
  (∃ (b e : List Byte) (fw fw' : Firmware),
    parseFrame b = .found fw ∧ parseFrame (b ++ e) = .found fw' ∧ fw ≠ fw')

/-- R115: a built frame is rejected at its own start with `RJ_TFI`; `PARSE` of it can still be `Found`; for the firmware
request it is `NotFound`. -/
def Obligations.BuiltFramesAreRejectedAtTheirStart : Prop :=
  (∀ (c r : List Byte), c.length ≤ 254 →
    candidate (buildFrame c ++ r) (buildFrame c ++ r).length 0 = .reject .tfi) ∧
  (∃ (c : List Byte) (fw : Firmware), c.length ≤ 254 ∧ parseFrame (buildFrame c) = .found fw) ∧
  parseFrame [0x00, 0x00, 0xFF, 0x02, 0xFE, 0xD4, 0x02, 0x2A, 0x00] = .notFound

/-- R178: an echo of the firmware request in front of captured bytes that do not begin `00 FF` neither hides a response nor
creates one: the result of `PARSE` is that of the captured bytes alone. -/
def Obligations.EchoOfRequestIsTransparent : Prop :=
  ∀ (r e : List Byte) (s0 s1 s : State), s0.enc.estat ≠ .busy → exec .getfw s0 = .next s1 → s1.enc.txf = some e →
    s.dec.dstat ≠ .busy → rxFits s.params (e ++ r).length = true → r.take 2 ≠ [0x00, 0xFF] →
    ∃ t u, exec (.parse (e ++ r)) s = .next t ∧ exec (.parse r) s = .next u ∧
      t.dec.dstat = u.dec.dstat ∧ t.dec.fwIc = u.dec.fwIc ∧ t.dec.fwVer = u.dec.fwVer ∧ t.dec.fwRev = u.dec.fwRev

/-- R149, its example: a response frame inside a rejected command frame is found; a parser that skipped the rejected frame
would not find it. -/
def Obligations.NestedFrameIsFound : Prop :=
  let b : List Byte := [0x00, 0x00, 0xFF, 0x0B, 0xF5, 0xD4, 0x00, 0x00, 0xFF, 0x05, 0xFB, 0xD5, 0x03, 0xA1, 0xB2, 0xC3, 0x3F,
    0x00]
  candidate b b.length 0 = .reject .tfi ∧
  (∀ j, 1 ≤ j → j ≤ 5 → candidate b b.length j = .reject .noStart) ∧
  parseFrame b = .found { ic := 0xA1, ver := 0xB2, rev := 0xC3 }

/-- R82: what the rules do with the acknowledge, negative acknowledge, application error and extended frames, whatever
follows them. That the chip sends such bytes is general knowledge of the spec, not a rule. -/
def Obligations.OtherProtocolFramesAreRejected : Prop :=
  ∀ r : List Byte,
    candidate ([0x00, 0x00, 0xFF, 0x00, 0xFF, 0x00] ++ r) (6 + r.length) 0 = .reject .lcs ∧
    candidate ([0x00, 0x00, 0xFF, 0xFF, 0x00, 0x00] ++ r) (6 + r.length) 0 = .reject .lcs ∧
    candidate ([0x00, 0x00, 0xFF, 0x01, 0xFF, 0x7F, 0x81, 0x00] ++ r) (8 + r.length) 0 = .reject .tfi ∧
    candidate ([0x00, 0x00, 0xFF, 0xFF, 0xFF] ++ r) (5 + r.length) 0 = .reject .lcs

/-! The frame kinds, as DEC meets them (log 3). -/

/-- R79, R115, R197: met at `SCAN`, a command frame, the firmware request among them, is rejected: `SCAN` moves on by one
and nothing else changes. -/
def Obligations.CommandFramesMoveScanOn : Prop :=
  ∀ (s : State) (i : Nat) (f : Instr), (f = .getfwCmd ∨ ∃ pd, f = .cmdFrame pd) →
    s.dec.dstat = .busy → s.dec.scan = some i →
    exec f s = .next { s with dec := { s.dec with scan := some (i + 1) } }

/-- R79, R135 to R138: met at `SCAN`, a response frame is decided by step 5 on its payload (all the bytes after the `TFI` but
the last): no payload, or another tag, or fewer than four payload bytes moves `SCAN` on; else the fields are reported. -/
def Obligations.ResponseFrameIsDecidedByItsPayload : Prop :=
  ∀ (s : State) (i : Nat) (body : List Byte), s.dec.dstat = .busy → s.dec.scan = some i →
    ((body.length ≤ 4 ∨ body.head? ≠ some 0x03) →
      exec (.rspFrame body) s = .next { s with dec := { s.dec with scan := some (i + 1) } }) ∧
    (∀ (ic ver rev dcs : Byte) (more : List Byte), body = 0x03 :: ic :: ver :: rev :: dcs :: more →
      exec (.rspFrame body) s = .next
        { s with dec := { s.dec with fwIc := some ic, fwVer := some ver, fwRev := some rev, dstat := .found } })

/-- R79, R138, R143: met at `SCAN`, a GetFirmwareVersion response is accepted: the three fields, `D_FOUND`, nothing else;
whatever follows the fields (further payload, the `DCS`) plays no part (R142). -/
def Obligations.FirmwareResponseIsReported : Prop :=
  ∀ (s : State) (i : Nat) (ic ver rev : Byte) (rest : List Byte),
    s.dec.dstat = .busy → s.dec.scan = some i → rest ≠ [] →
    exec (.getfwRsp ic ver rev rest) s = .next
      { s with dec := { s.dec with fwIc := some ic, fwVer := some ver, fwRev := some rev, dstat := .found } }

/-- The frame of a step of `DEC` (R110, R143, R148): nothing outside `DEC` changes, no byte of `RXB` changes, and the result
registers change only together with `D_FOUND`, `SCAN` only by a rejection. -/
def Obligations.DecStepsKeepTheBuffer : Prop :=
  ∀ (i : Instr) (s t : State), isDecMicro i = true → exec i s = .next t →
    t.enc = s.enc ∧ t.host = s.host ∧ t.params = s.params ∧ t.dec.rxb = s.dec.rxb ∧ t.dec.rxn = s.dec.rxn ∧
    (t.dec.dstat ≠ .found → t.dec.fwIc = s.dec.fwIc ∧ t.dec.fwVer = s.dec.fwVer ∧ t.dec.fwRev = s.dec.fwRev) ∧
    (t.dec.dstat ≠ .busy → t.dec.scan = s.dec.scan) ∧
    (t.dec.dstat = .busy → ∃ k, s.dec.scan = some k ∧ t.dec.scan = some (k + 1))

/-- Where `DSTAT` is not `D_BUSY` there is no step of `DEC` for a frame to be met in (R143; the form of the stop is log 9). -/
def Obligations.FramesNeedABusyParser : Prop :=
  ∀ (i : Instr) (s : State), isDecMicro i = true → s.dec.dstat ≠ .busy → exec i s = .refused .decNotBusy

/-- When the bytes at `SCAN` decode to a frame, the step in which `DEC` has the turn is that frame's `exec`, HOST's script
having moved on; when they decode to none it is the `TRY` step (R143); HOST's program lines run as their operations, its
start actions as R100 and R130 say, the turn of a busy `ENC` is an `EMIT` (R111), and the turn of a unit that is not busy
changes neither unit (R198). With no script a busy `ENC`, then a busy `DEC`, goes on, and with nothing to do the machine
waits (log 2, log 3). -/
def Obligations.StepRunsTheFetchedFrame : Prop :=
  (∀ (s : State) (as : List Action) (b more : List Byte) (i n : Nat) (f : Instr),
    s.host.script = .decTurn :: as → s.dec.dstat = .busy → s.dec.rxb = some b → s.dec.rxn = some n →
    s.dec.scan = some i → decode (slice b i n) = .ok f more → step s = exec f (s.withScript as)) ∧
  (∀ (s : State) (b more : List Byte) (i n : Nat) (f : Instr),
    s.host.script = [] → s.enc.estat ≠ .busy → s.dec.dstat = .busy → s.dec.rxb = some b → s.dec.rxn = some n →
    s.dec.scan = some i → decode (slice b i n) = .ok f more → step s = exec f s) ∧
  (∀ (s : State) (as : List Action) (b : List Byte) (i n : Nat) (why : DecodeError),
    s.dec.dstat = .busy → s.dec.rxb = some b → s.dec.rxn = some n → s.dec.scan = some i →
    decode (slice b i n) = .rejected why →
    (s.host.script = .decTurn :: as → step s = exec .tryStep (s.withScript as)) ∧
    (s.host.script = [] → s.enc.estat ≠ .busy → step s = exec .tryStep s)) ∧
  (∀ (s : State) (as : List Action) (c b : List Byte),
    (s.host.script = .build c :: as → step s = exec (.build c) (s.withScript as)) ∧
    (s.host.script = .parse b :: as → step s = exec (.parse b) (s.withScript as)) ∧
    (s.host.script = .getfw :: as → step s = exec .getfw (s.withScript as)) ∧
    (s.host.script = .startBuild c :: as → step s = startBuild c (s.withScript as)) ∧
    (s.host.script = .startParse b :: as → step s = startParse b (s.withScript as)) ∧
    (s.host.script = .encTurn :: as → s.enc.estat = .busy → step s = exec .emit (s.withScript as)) ∧
    (s.host.script = .encTurn :: as → s.enc.estat ≠ .busy → step s = .next (s.withScript as)) ∧
    (s.host.script = .decTurn :: as → s.dec.dstat ≠ .busy → step s = .next (s.withScript as)) ∧
    (s.host.script = [] → s.enc.estat = .busy → step s = exec .emit s)) ∧
  (∀ s : State, s.host.script = [] → s.enc.estat ≠ .busy → s.dec.dstat ≠ .busy → step s = .next s)

/-- Fetching a frame at `SCAN` and running it is the `TRY` step there (R143; log 3): the two views of a step of `DEC` agree
for every frame kind. -/
def Obligations.FetchedFrameAgreesWithTry : Prop :=
  ∀ (s : State) (b more : List Byte) (i : Nat) (f : Instr),
    s.dec.rxb = some b → s.dec.rxn = some b.length → s.dec.scan = some i →
    decode (slice b i b.length) = .ok f more → exec f s = exec .tryStep s

/-- R79, R80: `Candidate` accepts exactly the frames of the kind `GETFW_RSP`. -/
def Obligations.AcceptedIffFirmwareResponse : Prop :=
  ∀ (b : List Byte) (i : Nat) (fw : Firmware),
    candidate b b.length i = .accept fw ↔
      ∃ rest more, decode (slice b i b.length) = .ok (.getfwRsp fw.ic fw.ver fw.rev rest) more

/-! Encodings. -/

/-- Every well-formed frame decodes from its bytes to itself, whatever follows (R70, R77, R79); the operations have no bytes
(R85). -/
def Obligations.DecodeEncodeRoundTrip : Prop :=
  ∀ (i : Instr) (bs rest : List Byte), i.wf = true → encode i = some bs → decode (bs ++ rest) = .ok i rest

/-- Whatever decodes is a well-formed frame, and the bytes read are its encoding (R70, R79). -/
def Obligations.DecodedBytesAreTheEncoding : Prop :=
  ∀ (bs rest : List Byte) (i : Instr), decode bs = .ok i rest →
    i.wf = true ∧ ∃ e, encode i = some e ∧ bs = e ++ rest

/-- Words written out from R79 and R177 decode to what they stand for. That a response leaves its postamble in the rest is
log 14, that the more special kind is given is log 15. -/
def Obligations.WrittenOutFramesDecode : Prop :=
  decode [0x00, 0x00, 0xFF, 0x02, 0xFE, 0xD4, 0x02, 0x2A, 0x00] = .ok .getfwCmd [] ∧
  decode [0x00, 0x00, 0xFF, 0x04, 0xFC, 0xD4, 0x4A, 0x01, 0x00, 0xE1, 0x00] = .ok (.cmdFrame [0x4A, 0x01, 0x00]) [] ∧
  decode [0x00, 0x00, 0xFF, 0x05, 0xFB, 0xD5, 0x03, 0x32, 0x01, 0x06, 0xEF, 0x00] =
    .ok (.getfwRsp 0x32 0x01 0x06 [0xEF]) [0x00] ∧
  decode [0x00, 0x00, 0xFF, 0x05, 0xFB, 0xD5, 0x05, 0x32, 0x01, 0x06, 0xED, 0x00] =
    .ok (.rspFrame [0x05, 0x32, 0x01, 0x06, 0xED]) [0x00] ∧
  decode [0x00, 0x00, 0xFF, 0x01, 0xFF, 0x7F, 0x81, 0x00] = .rejected .tfi

/-- R79, R86: what `BUILD` leaves in `TXF` is a command frame of its command, the firmware request for `[02]`. -/
def Obligations.BuildOutputIsACommandFrame : Prop :=
  ∀ (c rest : List Byte) (s : State), s.enc.estat ≠ .busy → c.length ≤ 254 →
    ∃ t f, exec (.build c) s = .next t ∧ t.enc.txf = some f ∧
      encode (if c = [0x02] then .getfwCmd else .cmdFrame c) = some f ∧
      decode (f ++ rest) = .ok (if c = [0x02] then .getfwCmd else .cmdFrame c) rest

/-- R85: a program line written for an operation is read back as that operation, with or without a comment after it (what
may stand between the words is log 16). -/
def Obligations.ProgramLinesReadBack : Prop :=
  ∀ (i : Instr) (l comment : List Char), renderLine i = some l →
    readLine l = some i ∧ readLine (l ++ ' ' :: ';' :: comment) = some i

/-! The handshake, the agents, the invariant. -/

/-- R40: a read of a location without a readable value has no result, whatever an earlier operation left there; and in every
state of the machine the units read none: an enabled `EMIT` or `TRY` completes. -/
def Obligations.ReadsWithoutValueAreRefused : Prop :=
  (∀ (s : State) (as : List Action) (k : Nat), s.enc.estat ≠ .done →
    (s.host.script = .readTxf k :: as → step s = .refused (.noValue .txf)) ∧
    (s.host.script = .readFrame :: as → step s = .refused (.noValue .txf))) ∧
  (∀ (s : State) (as : List Action), s.dec.dstat ≠ .found →
    (s.host.script = .readIc :: as → step s = .refused (.noValue .fwIc)) ∧
    (s.host.script = .readVer :: as → step s = .refused (.noValue .fwVer)) ∧
    (s.host.script = .readRev :: as → step s = .refused (.noValue .fwRev))) ∧
  (∀ s : State, s.Inv → s.enc.estat = .busy → ∃ t, exec .emit s = .next t) ∧
  (∀ s : State, s.Inv → s.dec.dstat = .busy → ∃ t, exec .tryStep s = .next t)

/-- R24, R26, R31, R32, R173: what HOST reads when the status allows it, each read changing neither unit; the status words at
any time; the collected result (how HOST is answered is log 2, the answer before a `PARSE` has ended log 19). -/
def Obligations.ReadsUnderTheHandshakeDeliver : Prop :=
  (∀ (s : State) (as : List Action) (f : List Byte) (k : Nat) (b : Byte),
    s.enc.estat = .done → s.enc.txf = some f → f[k]? = some b →
    (s.host.script = .readTxf k :: as → step s = .next ((s.withScript as).withReply (.byte b))) ∧
    (s.host.script = .readFrame :: as → step s = .next ((s.withScript as).withReply (.frame f)))) ∧
  (∀ (s : State) (as : List Action) (fw : Firmware),
    s.dec.dstat = .found → s.dec.fwIc = some fw.ic → s.dec.fwVer = some fw.ver → s.dec.fwRev = some fw.rev →
    (s.host.script = .readIc :: as → step s = .next ((s.withScript as).withReply (.byte fw.ic))) ∧
    (s.host.script = .readVer :: as → step s = .next ((s.withScript as).withReply (.byte fw.ver))) ∧
    (s.host.script = .readRev :: as → step s = .next ((s.withScript as).withReply (.byte fw.rev))) ∧
    (s.host.script = .collect :: as → step s = .next ((s.withScript as).withReply (.found fw)))) ∧
  (∀ (s : State) (as : List Action),
    (s.host.script = .readEstat :: as → step s = .next ((s.withScript as).withReply (.estat s.enc.estat))) ∧
    (s.host.script = .readDstat :: as → step s = .next ((s.withScript as).withReply (.dstat s.dec.dstat))) ∧
    (s.host.script = .collect :: as → s.dec.dstat = .notFound →
      step s = .next ((s.withScript as).withReply .notFound)) ∧
    (s.host.script = .collect :: as → s.dec.dstat = .idle ∨ s.dec.dstat = .busy →
      step s = .next ((s.withScript as).withReply (.dstat s.dec.dstat))))

/-- R225, U6: a start while the unit is busy has no effect on the operation in progress, at either level; only HOST is told
(log 4). -/
def Obligations.StartWhileBusyHasNoEffect : Prop :=
  (∀ (s : State) (c : List Byte), s.enc.estat = .busy →
    exec (.build c) s = .next (s.withReply (.declined .busy)) ∧
    exec .getfw s = .next (s.withReply (.declined .busy)) ∧
    startBuild c s = .next (s.withReply (.declined .busy))) ∧
  (∀ (s : State) (b : List Byte), s.dec.dstat = .busy →
    exec (.parse b) s = .next (s.withReply (.declined .busy)) ∧
    startParse b s = .next (s.withReply (.declined .busy)))

/-- R21: the two units share no state: an instruction of one neither changes nor reads the other's. -/
def Obligations.UnitsAreDisjoint : Prop :=
  (∀ (i : Instr) (s t : State) (d : Dec), onEnc i = true → exec i s = .next t →
    t.dec = s.dec ∧ exec i (s.withDec d) = .next (t.withDec d)) ∧
  (∀ (i : Instr) (s t : State) (e : Enc), onEnc i = false → exec i s = .next t →
    t.enc = s.enc ∧ exec i (s.withEnc e) = .next (t.withEnc e))

/-- R7, R59, D4: the order in which steps of the two units interleave cannot be observed. -/
def Obligations.MicroStepsCommute : Prop :=
  ∀ (i : Instr) (s t u : State), isDecMicro i = true → exec .emit s = .next t → exec i s = .next u →
    ∃ v, exec i t = .next v ∧ exec .emit u = .next v

/-- R198, D21: a frame, a refusal or a result stays as it is until HOST starts the next operation on that unit (or resets
the block): every other step leaves the unit alone. -/
def Obligations.ResultsStayUntilTheNextStart : Prop :=
  (∀ s t : State, step s = .next t → s.enc.estat ≠ .busy →
    (∀ a as, s.host.script = a :: as → startsEnc a = false) → t.enc = s.enc) ∧
  (∀ s t : State, step s = .next t → s.dec.dstat ≠ .busy →
    (∀ a as, s.host.script = a :: as → startsDec a = false) → t.dec = s.dec)

/-- R26, R27, R111, R225: whatever HOST does short of a reset, a `BUILD` in progress is not disturbed: a step leaves `ENC`
as it is or is the next `EMIT`. -/
def Obligations.BuildInProgressIsNotDisturbed : Prop :=
  ∀ s t : State, step s = .next t → s.enc.estat = .busy → (∀ as, s.host.script ≠ .reset :: as) →
    t.enc = s.enc ∨ ∃ u, exec .emit s = .next u ∧ t.enc = u.enc

/-- The parameter `RX_MAX` is fixed in the hardware: no step changes it (R41; that it is carried in State is log 8). -/
def Obligations.StepKeepsTheParameter : Prop :=
  ∀ s t : State, step s = .next t → t.params = s.params

/-- The invariant of the machine (Safety.lean; R24 to R42) holds after reset. -/
def Obligations.ResetMeetsTheInvariant : Prop := State.reset.Inv

/-- Every step keeps the invariant: the status words, the buffers, the hidden registers and the result registers always
stand in one of the combinations that R26, R28, R31, R34 describe; so `TXF` is always the front of `BuildFrame(CMD)`,
`ACC` its sum, and the fields those of the first accepted frame of `RXB`. -/
def Obligations.StepKeepsTheInvariant : Prop :=
  ∀ s t : State, s.Inv → step s = .next t → t.Inv

/-- R31, R33, R143, R195, R225: whatever HOST does short of a reset, a `PARSE` in progress is not disturbed: a step leaves
`DEC` as it is or is the next `TRY`, also where a frame is fetched at `SCAN` (log 3). -/
def Obligations.ParseInProgressIsNotDisturbed : Prop :=
  ∀ s t : State, step s = .next t → s.dec.dstat = .busy → (∀ as, s.host.script ≠ .reset :: as) →
    t.dec = s.dec ∨ ∃ u, exec .tryStep s = .next u ∧ t.dec = u.dec
end

