-- ==== Sys2Proof/Laws/State.lean ====
section
/-! SUPPORT. One lemma per field of each update of State, Enc and Dec. -/

namespace Sys2Proof.Machine

variable (s : State) (e : Enc) (d : Dec) (r : Reply) (as : List Action) (fw : Firmware)

@[simp] theorem State.withEnc_enc : (s.withEnc e).enc = e := rfl
@[simp] theorem State.withEnc_dec : (s.withEnc e).dec = s.dec := rfl
@[simp] theorem State.withEnc_host : (s.withEnc e).host = s.host := rfl
@[simp] theorem State.withEnc_params : (s.withEnc e).params = s.params := rfl

@[simp] theorem State.withDec_enc : (s.withDec d).enc = s.enc := rfl
@[simp] theorem State.withDec_dec : (s.withDec d).dec = d := rfl
@[simp] theorem State.withDec_host : (s.withDec d).host = s.host := rfl
@[simp] theorem State.withDec_params : (s.withDec d).params = s.params := rfl

@[simp] theorem State.withReply_enc : (s.withReply r).enc = s.enc := rfl
@[simp] theorem State.withReply_dec : (s.withReply r).dec = s.dec := rfl
@[simp] theorem State.withReply_script : (s.withReply r).host.script = s.host.script := rfl
@[simp] theorem State.withReply_reply : (s.withReply r).host.reply = r := rfl
@[simp] theorem State.withReply_params : (s.withReply r).params = s.params := rfl

@[simp] theorem State.withScript_enc : (s.withScript as).enc = s.enc := rfl
@[simp] theorem State.withScript_dec : (s.withScript as).dec = s.dec := rfl
@[simp] theorem State.withScript_script : (s.withScript as).host.script = as := rfl
@[simp] theorem State.withScript_reply : (s.withScript as).host.reply = s.host.reply := rfl
@[simp] theorem State.withScript_params : (s.withScript as).params = s.params := rfl

@[simp] theorem resetBlock_enc : (resetBlock s).enc = Enc.reset := rfl
@[simp] theorem resetBlock_dec : (resetBlock s).dec = Dec.reset := rfl
@[simp] theorem resetBlock_script : (resetBlock s).host.script = s.host.script := rfl
@[simp] theorem resetBlock_params : (resetBlock s).params = s.params := rfl

@[simp] theorem Enc.refuse_txf : e.refuse.txf = none := rfl
@[simp] theorem Enc.refuse_estat : e.refuse.estat = .refused := rfl
@[simp] theorem Enc.refuse_refuse : e.refuse.refuse = e.refuse := rfl

@[simp] theorem Enc.reset_estat : Enc.reset.estat = .idle := rfl
@[simp] theorem Enc.started_estat (c : List Byte) : (Enc.started c).estat = .busy := rfl
@[simp] theorem Enc.built_estat (c : List Byte) : (Enc.built c).estat = .done := rfl
@[simp] theorem Enc.built_txf (c : List Byte) : (Enc.built c).txf = some (buildFrame c) := rfl
@[simp] theorem Enc.busyAt_estat (c : List Byte) (k : Nat) : (Enc.busyAt c k).estat = .busy := rfl

@[simp] theorem Dec.accept_rxb : (d.accept fw).rxb = d.rxb := rfl
@[simp] theorem Dec.accept_rxn : (d.accept fw).rxn = d.rxn := rfl
@[simp] theorem Dec.accept_scan : (d.accept fw).scan = d.scan := rfl
@[simp] theorem Dec.accept_fwIc : (d.accept fw).fwIc = some fw.ic := rfl
@[simp] theorem Dec.accept_fwVer : (d.accept fw).fwVer = some fw.ver := rfl
@[simp] theorem Dec.accept_fwRev : (d.accept fw).fwRev = some fw.rev := rfl
@[simp] theorem Dec.accept_dstat : (d.accept fw).dstat = .found := rfl

@[simp] theorem Dec.exhaust_rxb : d.exhaust.rxb = d.rxb := rfl
@[simp] theorem Dec.exhaust_rxn : d.exhaust.rxn = d.rxn := rfl
@[simp] theorem Dec.exhaust_scan : d.exhaust.scan = d.scan := rfl
@[simp] theorem Dec.exhaust_fwIc : d.exhaust.fwIc = d.fwIc := rfl
@[simp] theorem Dec.exhaust_fwVer : d.exhaust.fwVer = d.fwVer := rfl
@[simp] theorem Dec.exhaust_fwRev : d.exhaust.fwRev = d.fwRev := rfl
@[simp] theorem Dec.exhaust_dstat : d.exhaust.dstat = .notFound := rfl

@[simp] theorem Dec.reset_dstat : Dec.reset.dstat = .idle := rfl
@[simp] theorem Dec.started_dstat (b : List Byte) : (Dec.started b).dstat = .busy := rfl
@[simp] theorem Dec.scanning_dstat (b : List Byte) (i : Nat) : (Dec.scanning b i).dstat = .busy := rfl
theorem Dec.started_eq_scanning (b : List Byte) : Dec.started b = Dec.scanning b 0 := rfl

end Sys2Proof.Machine
end

