-- ==== Sys2Proof/Laws/Ops.lean ====
section
/-! SUPPORT. What each shared operation can do: one lemma per operation. -/

namespace Sys2Proof.Machine

section
variable {α : Type}

@[simp] theorem need_some (loc : Loc) (v : α) (k : α → Out) : need loc (some v) k = k v := rfl
@[simp] theorem need_none (loc : Loc) (k : α → Out) : need loc none k = .refused (.noValue loc) := rfl
@[simp] theorem needIndex_some (buf : Loc) (i : Nat) (v : α) (k : α → Out) : needIndex buf i (some v) k = k v := rfl
@[simp] theorem needIndex_none (buf : Loc) (i : Nat) (k : α → Out) :
    needIndex buf i none k = .refused (.badIndex buf i) := rfl

/-- A read that goes on found a value. -/
theorem need_next {loc : Loc} {r : Option α} {k : α → Out} {t : State} (h : need loc r k = .next t) :
    ∃ v, r = some v ∧ k v = .next t := by
  cases r with
  | none => cases h
  | some v => exact ⟨v, rfl, h⟩

/-- An access that goes on was within the buffer. -/
theorem needIndex_next {buf : Loc} {i : Nat} {r : Option α} {k : α → Out} {t : State}
    (h : needIndex buf i r k = .next t) : ∃ v, r = some v ∧ k v = .next t := by
  cases r with
  | none => cases h
  | some v => exact ⟨v, rfl, h⟩

end

/-- A read of `Candidate` inside the buffer. -/
theorem readByte_lt {b : Buffer} {i : Nat} (h : i < b.length) (k : Byte → Verdict) : readByte b i k = k b[i] := by
  simp [readByte, memRead, List.getElem?_eq_getElem h]

theorem memRead_of_lt {b : Buffer} {i : Nat} (h : i < b.length) : memRead b i = some b[i] := by
  simp [memRead, List.getElem?_eq_getElem h]

/-- An append is defined at the end only (R56). -/
theorem memAppend_eq_some {b c : Buffer} {k : Nat} {v : Byte} :
    memAppend b k v = some c ↔ k = b.length ∧ c = b ++ [v] := by
  unfold memAppend
  split <;> simp_all [eq_comm]

/-- An append changes no byte that is there (R56). -/
theorem memRead_append_ne {b : Buffer} {v : Byte} {a : Nat} (h : a ≠ b.length) :
    memRead (b ++ [v]) a = memRead b a := by
  unfold memRead
  rcases Nat.lt_or_gt_of_ne h with h | h
  · rw [List.getElem?_append_left h]
  · rw [List.getElem?_eq_none (by simp; omega), List.getElem?_eq_none (by omega)]

theorem slice_length (s : List Byte) (a b : Nat) : (slice s a b).length = min (b - a) (s.length - a) := by
  simp [slice]

theorem wfFrom_cellsFrom (a : Nat) (b : List Byte) : Memory.wfFrom a (cellsFrom a b) = true := by
  induction b generalizing a with
  | nil => rfl
  | cons v t ih => simp [cellsFrom, Memory.wfFrom, ih]

/-- Every buffer is in canonical form, so every operation on one keeps it; a buffer that holds no value has no cells. -/
theorem wf_cellsOf (b : Buffer) : Memory.wf (cellsOf b) = true := wfFrom_cellsFrom 0 b

theorem cellsFrom_lookup (a : Nat) (b : List Byte) (k : Nat) :
    (cellsFrom a b).lookup (a + k) = b[k]? := by
  induction b generalizing a k with
  | nil => simp [cellsFrom]
  | cons v t ih =>
    cases k with
    | zero => simp [cellsFrom]
    | succ m =>
      have h : (a + (m + 1) == a) = false := by simp
      simp only [cellsFrom, List.lookup_cons, h, List.getElem?_cons_succ]
      rw [show a + (m + 1) = (a + 1) + m by omega, ih]

/-- `MemRead` on a buffer is the lookup of its address among its cells. -/
theorem memRead_eq_lookup (b : Buffer) (k : Nat) : memRead b k = (cellsOf b).lookup k := by
  rw [cellsOf, ← Nat.zero_add k, cellsFrom_lookup, Nat.zero_add, memRead]

/-- Equal cells are equal buffers. -/
theorem cellsOf_injective {b c : Buffer} (h : cellsOf b = cellsOf c) : b = c := by
  apply List.ext_getElem?
  intro k
  have := memRead_eq_lookup b k
  rw [h, ← memRead_eq_lookup c k] at this
  exact this

/-- A start on `ENC` always answers a next state, one of three. -/
theorem startEnc_cases (c : List Byte) (e : Enc) (s : State) :
    (s.enc.estat = .busy ∧ startEnc c e s = .next (s.withReply (.declined .busy))) ∨
    (s.enc.estat ≠ .busy ∧ Config.cmdMax < c.length ∧
      startEnc c e s = .next ((s.withEnc s.enc.refuse).withReply (.declined .cmdTooLong))) ∨
    (s.enc.estat ≠ .busy ∧ c.length ≤ Config.cmdMax ∧
      startEnc c e s = .next ((s.withEnc e).withReply .accepted)) := by
  unfold startEnc
  split
  · exact .inl ⟨‹_›, rfl⟩
  · split
    · exact .inr (.inl ⟨‹_›, ‹_›, rfl⟩)
    · exact .inr (.inr ⟨‹_›, by omega, rfl⟩)

/-- A start on `DEC` has three outcomes. -/
theorem startDec_cases (b : List Byte) (d : Dec) (s : State) :
    (s.dec.dstat = .busy ∧ startDec b d s = .next (s.withReply (.declined .busy))) ∨
    (s.dec.dstat ≠ .busy ∧ rxFits s.params b.length = false ∧ startDec b d s = .refused .rxTooLong) ∨
    (s.dec.dstat ≠ .busy ∧ rxFits s.params b.length = true ∧
      startDec b d s = .next ((s.withDec d).withReply .accepted)) := by
  unfold startDec
  split
  · exact .inl ⟨‹_›, rfl⟩
  · split
    · exact .inr (.inl ⟨‹_›, ‹_›, rfl⟩)
    · exact .inr (.inr ⟨‹_›, by simp_all, rfl⟩)

/-- A verdict changes the result registers (acceptance) or `SCAN` (rejection) and nothing else. -/
theorem applyVerdict_next {v : Verdict} {s t : State} (h : applyVerdict v s = .next t) :
    ∃ i, s.dec.scan = some i ∧
      ((∃ fw, v = .accept fw ∧ t = s.withDec (s.dec.accept fw)) ∨
       (∃ why, v = .reject why ∧ t = s.withDec { s.dec with scan := some (i + 1) })) := by
  obtain ⟨i, hi, h⟩ := need_next h
  refine ⟨i, hi, ?_⟩
  cases v with
  | accept fw => cases h; exact .inl ⟨fw, rfl, rfl⟩
  | reject why => cases h; exact .inr ⟨why, rfl, rfl⟩
  | unread => cases h

/-- A step of `DEC` that goes on was enabled (R143). -/
theorem whenDecBusy_next {k : State → Out} {s t : State} (h : whenDecBusy k s = .next t) :
    s.dec.dstat = .busy ∧ k s = .next t := by
  unfold whenDecBusy at h
  split at h
  · exact ⟨‹_›, h⟩
  · cases h

/-- A step of `ENC` that goes on was enabled (R111). -/
theorem whenEncBusy_next {k : State → Out} {s t : State} (h : whenEncBusy k s = .next t) :
    s.enc.estat = .busy ∧ k s = .next t := by
  unfold whenEncBusy at h
  split at h
  · exact ⟨‹_›, h⟩
  · cases h

/-- What an `EMIT` that goes on has done (R111). -/
theorem execEmit_next {s t : State} (h : execEmit s = .next t) :
    s.enc.estat = .busy ∧ ∃ k l cmd acc txf b acc', s.enc.eidx = some k ∧ s.enc.clen = some l ∧
      s.enc.cmd = some cmd ∧ s.enc.acc = some acc ∧ s.enc.txf = some txf ∧
      emitByte cmd l acc k = some (b, acc') ∧ k = txf.length ∧
      t = s.withEnc (s.enc.emitted l k acc' (txf ++ [b])) := by
  obtain ⟨hb, h⟩ := whenEncBusy_next h
  obtain ⟨k, hk, h⟩ := need_next h
  obtain ⟨l, hl, h⟩ := need_next h
  obtain ⟨cmd, hc, h⟩ := need_next h
  obtain ⟨acc, ha, h⟩ := need_next h
  obtain ⟨txf, ht, h⟩ := need_next h
  obtain ⟨⟨b, acc'⟩, hba, h⟩ := needIndex_next h
  obtain ⟨txf', htx, h⟩ := needIndex_next h
  obtain ⟨hkl, rfl⟩ := memAppend_eq_some.mp htx
  cases h
  exact ⟨hb, k, l, cmd, acc, txf, b, acc', hk, hl, hc, ha, ht, hba, hkl, rfl⟩

/-- What a `TRY` that goes on has done (R143). -/
theorem execTry_next {s t : State} (h : execTry s = .next t) :
    s.dec.dstat = .busy ∧ ∃ i n, s.dec.scan = some i ∧ s.dec.rxn = some n ∧
      ((n ≤ i ∧ t = s.withDec s.dec.exhaust) ∨
       (i < n ∧ ∃ b, s.dec.rxb = some b ∧ applyVerdict (candidate b n i) s = .next t)) := by
  obtain ⟨hb, h⟩ := whenDecBusy_next h
  obtain ⟨i, hi, h⟩ := need_next h
  obtain ⟨n, hn, h⟩ := need_next h
  refine ⟨hb, i, n, hi, hn, ?_⟩
  split at h
  · cases h; exact .inl ⟨‹_›, rfl⟩
  · obtain ⟨b, hbb, h⟩ := need_next h
    exact .inr ⟨by omega, b, hbb, h⟩

/-- What a frame met by `DEC` that goes on has done. -/
theorem meetFrame_next {tfi : Byte} {body : List Byte} {s t : State} (h : meetFrame tfi body s = .next t) :
    s.dec.dstat = .busy ∧ applyVerdict (frameVerdict tfi body) s = .next t := whenDecBusy_next h

/-- The turn of `ENC` is an `EMIT` of a busy encoder, or changes nothing. -/
theorem encTurn_next {s t : State} (h : encTurn s = .next t) :
    (s.enc.estat = .busy ∧ execEmit s = .next t) ∨ (s.enc.estat ≠ .busy ∧ t = s) := by
  unfold encTurn at h
  split at h
  · exact .inl ⟨‹_›, h⟩
  · cases h; exact .inr ⟨‹_›, rfl⟩

/-- The turn of `DEC` runs the fetched frame of a busy parser, or its `TRY`, or changes nothing. -/
theorem decTurn_next {s t : State} (h : decTurn s = .next t) :
    (s.dec.dstat = .busy ∧ ((∃ i, fetchFrame s = some i ∧ exec i s = .next t) ∨
      (fetchFrame s = none ∧ execTry s = .next t))) ∨ (s.dec.dstat ≠ .busy ∧ t = s) := by
  unfold decTurn at h
  split at h
  · refine .inl ⟨‹_›, ?_⟩
    split at h
    · exact .inl ⟨_, ‹_›, h⟩
    · exact .inr ⟨‹_›, h⟩
  · cases h; exact .inr ⟨‹_›, rfl⟩

section
variable {α : Type}

/-- A read by HOST that goes on was allowed, found a value, and changed HOST's answer only. -/
theorem hostRead_next {ready : Bool} {loc : Loc} {r : Option α} {k : α → Reply} {s t : State}
    (h : hostRead ready loc r s k = .next t) : ready = true ∧ ∃ v, r = some v ∧ t = s.withReply (k v) := by
  unfold hostRead at h
  split at h
  · obtain ⟨v, hv, h⟩ := need_next h
    cases h; exact ⟨‹_›, v, hv, rfl⟩
  · cases h

end

/-- The same of a read of one byte of `TXF`. -/
theorem readTxf_next {k : Nat} {s t : State} (h : readTxf k s = .next t) :
    s.enc.estat = .done ∧ ∃ f v, s.enc.txf = some f ∧ memRead f k = some v ∧ t = s.withReply (.byte v) := by
  unfold readTxf at h
  split at h
  · obtain ⟨f, hf, h⟩ := need_next h
    obtain ⟨v, hv, h⟩ := needIndex_next h
    cases h; exact ⟨‹_›, f, v, hf, hv, rfl⟩
  · cases h

/-- Collecting changes HOST's answer only. -/
theorem collect_next {s t : State} (h : collect s = .next t) : ∃ r, t = s.withReply r := by
  unfold collect at h
  split at h
  · obtain ⟨_, _, h⟩ := need_next h
    obtain ⟨_, _, h⟩ := need_next h
    obtain ⟨_, _, h⟩ := need_next h
    cases h; exact ⟨_, rfl⟩
  all_goals cases h; exact ⟨_, rfl⟩

end Sys2Proof.Machine
end

