-- ==== Sys2Proof/Laws/Parser.lean ====
section
/-! SUPPORT. The parser's functions, case by case. -/

namespace Sys2Proof.Machine

theorem step5_ne_unread {plen : Nat} {fd : List Byte} (h : plen ≤ fd.length) : step5 plen fd ≠ .unread := by
  unfold step5
  split
  · simp
  · rw [readByte_lt (by omega)]
    split
    · simp
    · split
      · simp
      · have h4 : Config.fwPlenMin = 4 := rfl
        rw [readByte_lt (by omega), readByte_lt (by omega), readByte_lt (by omega)]
        simp

/-- Every read of `Candidate` is in range (R55, R138, U7). -/
theorem candidate_ne_unread {b : Buffer} {n : Nat} (i : Nat) (h : n ≤ b.length) : candidate b n i ≠ .unread := by
  unfold candidate
  split
  · simp
  · rw [readByte_lt (by omega), readByte_lt (by omega), readByte_lt (by omega)]
    split
    · simp
    · unfold afterStart
      split
      · simp
      · rw [readByte_lt (by omega), readByte_lt (by omega)]
        split
        · simp
        · unfold afterLcs
          split
          · simp
          · rw [readByte_lt (by omega)]
            split
            · simp
            · split
              · simp
              · apply step5_ne_unread
                rw [slice_length]
                omega

/-- Inside a whole buffer a candidate is accepted or rejected. -/
theorem candidate_cases (b : Buffer) (i : Nat) :
    (∃ fw, candidate b b.length i = .accept fw) ∨ rejectsAt b i := by
  cases h : candidate b b.length i with
  | accept fw => exact .inl ⟨fw, rfl⟩
  | reject why => exact .inr ⟨why, h⟩
  | unread => exact absurd h (candidate_ne_unread i (Nat.le_refl _))

theorem scanFrom_accept {b : Buffer} {i : Nat} {fw : Firmware} (h : candidate b b.length i = .accept fw) (fuel : Nat) :
    scanFrom b (fuel + 1) i = (i, .found fw) := by
  simp [scanFrom, h]

theorem scanFrom_reject {b : Buffer} {i : Nat} (h : rejectsAt b i) (fuel : Nat) :
    scanFrom b (fuel + 1) i = scanFrom b fuel (i + 1) := by
  obtain ⟨why, h⟩ := h
  simp [scanFrom, h]

end Sys2Proof.Machine
end

