-- ==== Sys2Proof/Laws/PerInstr.lean ====
section
/-! SUPPORT. A statement per instruction: the first three bytes of every frame are `00 00 FF` (spec/30_encoding.md R71). -/

namespace Sys2Proof.Laws.StartBytes

/-- The encoding of an instruction, if it has one, begins with the start sequence. -/
def Statement (i : Instr) : Prop := ∀ bs, encode i = some bs → bs.take 3 = [0x00, 0x00, 0xFF]

theorem cmdBytes_take (pd : List Byte) : (cmdBytes pd).take 3 = [0x00, 0x00, 0xFF] := by
  simp [cmdBytes, header, Config.preamble, Config.start0, Config.start1]

theorem rspBytes_take (body : List Byte) : (rspBytes body).take 3 = [0x00, 0x00, 0xFF] := by
  simp [rspBytes, header, Config.preamble, Config.start0, Config.start1]

theorem build (c : List Byte) : Statement (.build c) := by rintro bs ⟨⟩
theorem emit : Statement .emit := by rintro bs ⟨⟩
theorem parse (b : List Byte) : Statement (.parse b) := by rintro bs ⟨⟩
theorem tryStep : Statement .tryStep := by rintro bs ⟨⟩
theorem getfw : Statement .getfw := by rintro bs ⟨⟩
theorem cmdFrame (pd : List Byte) : Statement (.cmdFrame pd) := by rintro bs ⟨⟩; exact cmdBytes_take pd
theorem getfwCmd : Statement .getfwCmd := by rintro bs ⟨⟩; exact cmdBytes_take _
theorem rspFrame (body : List Byte) : Statement (.rspFrame body) := by rintro bs ⟨⟩; exact rspBytes_take body
theorem getfwRsp (ic ver rev : Byte) (rest : List Byte) : Statement (.getfwRsp ic ver rev rest) := by
  rintro bs ⟨⟩; exact rspBytes_take _

end Sys2Proof.Laws.StartBytes
end

