-- ==== Sys2Proof/Laws/Word.lean ====
section
/-! SUPPORT. The byte operations as operations of BitVec, and the running sum. -/

namespace Sys2Proof

theorem add8_eq (a b : Byte) : add8 a b = a + b := by
  simp [add8, BitVec.ofNat_add]

theorem neg8_eq (a : Byte) : neg8 a = -a := by
  apply BitVec.eq_of_toNat_eq
  simp [neg8, BitVec.toNat_neg]

theorem not8_eq (a : Byte) : not8 a = ~~~a := by
  apply BitVec.eq_of_toNat_eq
  simp [not8, BitVec.toNat_not]
  omega

namespace Machine

@[simp] theorem sum8_nil : sum8 [] = 0 := rfl

theorem sum8_snoc (s : List Byte) (b : Byte) : sum8 (s ++ [b]) = add8 (sum8 s) b := by
  simp [sum8]

theorem foldl_add8 (s : List Byte) (a : Byte) : s.foldl add8 a = a + sum8 s := by
  induction s generalizing a with
  | nil => simp
  | cons b t ih =>
    have h : sum8 (b :: t) = b + sum8 t := by
      have h0 : sum8 (b :: t) = t.foldl add8 (add8 0x00 b) := rfl
      rw [h0, ih]
      simp [add8_eq]
    rw [List.foldl_cons, ih, h, add8_eq, BitVec.add_assoc]

theorem sum8_cons (b : Byte) (t : List Byte) : sum8 (b :: t) = b + sum8 t := by
  have h : sum8 (b :: t) = t.foldl add8 (add8 0x00 b) := rfl
  rw [h, foldl_add8]
  simp [add8_eq]

theorem sum8_append (s t : List Byte) : sum8 (s ++ t) = sum8 s + sum8 t := by
  induction s with
  | nil => simp
  | cons b u ih => rw [List.cons_append, sum8_cons, ih, sum8_cons, BitVec.add_assoc]

end Machine

end Sys2Proof
end

