-- ==== Sys2Proof/Tests/Slice0.lean ====
section
/-! SUPPORT. Tests: one step each, expected results from spec/95_test_vectors.md and the rules' worked examples; ill-formed
terms; decoded words; and, for every statement with hypotheses, a witness that meets them. -/

namespace Sys2Proof.Tests

open Sys2Proof Sys2Proof.Machine

/-- The outcome is a next state with this property. -/
def nextIs (o : Out) (p : State → Bool) : Bool :=
  match o with
  | .next t => p t
  | .fault _ => false
  | .refused _ => false

/-- The outcome is this refusal. -/
def refusedAs (o : Out) (r : Refusal) : Bool :=
  match o with
  | .next _ => false
  | .fault _ => false
  | .refused q => decide (q = r)

/-- The reset state with `ENC` in the middle of a `BUILD`. -/
def encAt (c : List Byte) (k : Nat) : State := State.reset.withEnc (Enc.busyAt c k)

/-- The reset state with `DEC` in the middle of a `PARSE`. -/
def decAt (b : List Byte) (i : Nat) : State := State.reset.withDec (Dec.scanning b i)

/-- The reset state with one coming action. -/
def withAction (a : Action) (s : State) : State := s.withScript [a]

/-- The corrected scenario 2 (spec/95 S2c, V-P01). -/
def s2c : List Byte := [0x00, 0x00, 0xFF, 0x05, 0xFB, 0xD5, 0x03, 0x32, 0x01, 0x06, 0xEF, 0x00]

/-! Ill-formed terms, one for each check of WellFormed. -/

set_option maxRecDepth 8000 in
theorem smoke_cmdFrame_too_long : (Instr.cmdFrame (List.replicate 255 0x01)).wf = false := by decide
theorem smoke_cmdFrame_is_getfwCmd : (Instr.cmdFrame [0x02]).wf = false := by decide
set_option maxRecDepth 8000 in
theorem smoke_rspFrame_too_long : (Instr.rspFrame (List.replicate 256 0x01)).wf = false := by decide
theorem smoke_rspFrame_is_getfwRsp : (Instr.rspFrame [0x03, 0x32, 0x01, 0x06, 0xEF]).wf = false := by decide
theorem smoke_getfwRsp_no_dcs : (Instr.getfwRsp 0x32 0x01 0x06 []).wf = false := by decide
set_option maxRecDepth 8000 in
theorem smoke_getfwRsp_too_long : (Instr.getfwRsp 0x32 0x01 0x06 (List.replicate 252 0x00)).wf = false := by decide

/-! Decoded words, written out from R79; the operations have none (R85). -/

/-- R79: the whole frame; spec/95 V-B01. -/
theorem test_decode_getfwCmd :
    decode [0x00, 0x00, 0xFF, 0x02, 0xFE, 0xD4, 0x02, 0x2A, 0x00] = .ok .getfwCmd [] := by decide
/-- spec/95 V-B07. -/
theorem test_decode_cmdFrame :
    decode [0x00, 0x00, 0xFF, 0x04, 0xFC, 0xD4, 0x4A, 0x01, 0x00, 0xE1, 0x00] = .ok (.cmdFrame [0x4A, 0x01, 0x00]) [] := by
  decide
/-- spec/95 V-P23. -/
theorem test_decode_rspFrame :
    decode [0x00, 0x00, 0xFF, 0x05, 0xFB, 0xD5, 0x05, 0x32, 0x01, 0x06, 0xED, 0x00] =
      .ok (.rspFrame [0x05, 0x32, 0x01, 0x06, 0xED]) [0x00] := by decide
/-- spec/95 V-P06: the four-field reply. -/
theorem test_decode_getfwRsp :
    decode [0x00, 0x00, 0xFF, 0x06, 0xFA, 0xD5, 0x03, 0x32, 0x01, 0x06, 0x07, 0xE8, 0x00] =
      .ok (.getfwRsp 0x32 0x01 0x06 [0x07, 0xE8]) [0x00] := by decide
/-- R81: `LEN = 0` passes the `LCS` test; the frame ends with its `TFI`. -/
theorem test_decode_rspFrame_len0 : decode [0x00, 0x00, 0xFF, 0x00, 0x00, 0xD5] = .ok (.rspFrame []) [] := by decide
/-- R79: a command frame has `LEN >= 1`. -/
theorem test_decode_cmd_len0 : decode [0x00, 0x00, 0xFF, 0x00, 0x00, 0xD4] = .rejected .lenZero := by decide
/-- R82: the acknowledge frame. -/
theorem test_decode_ack : decode [0x00, 0x00, 0xFF, 0x00, 0xFF, 0x00] = .rejected .lcs := by decide
/-- R79: a wrong `DCS` (`29` is the one's complement of 90_conflicts.md C2). -/
theorem test_decode_cmd_dcs :
    decode [0x00, 0x00, 0xFF, 0x02, 0xFE, 0xD4, 0x02, 0x29, 0x00] = .rejected .dcs := by decide
/-- R79: a wrong postamble. -/
theorem test_decode_cmd_postamble :
    decode [0x00, 0x00, 0xFF, 0x02, 0xFE, 0xD4, 0x02, 0x2A, 0x77] = .rejected .postamble := by decide
/-- R85: no operation has bytes. -/
theorem test_operations_have_no_bytes :
    encode (.build [0x02]) = none ∧ encode .emit = none ∧ encode (.parse s2c) = none ∧ encode .tryStep = none ∧
      encode .getfw = none := by decide

set_option maxRecDepth 8000 in
/-- The table word of `GETFW_CMD`, first byte lowest, is fetched at `SCAN` and run as the first step after reset. -/
theorem test_fetch_getfwCmd :
    decodeTableWord 72 0x002A02D4FE02FF0000 = some .getfwCmd ∧
      nextIs (step (State.reset.withFetchWord 72 0x002A02D4FE02FF0000)) (fun t => decide (t.dec.scan = some 1)) = true := by
  decide

/-- spec/95 P1: the program's lines (R85), with a comment. -/
theorem test_read_program :
    readProgram
        [['G', 'E', 'T', 'F', 'W', ' ', ';', ' ', 'x'],
         [' ', ';', 'y'],
         ['P', 'A', 'R', 'S', 'E', ' ', '[', '0', '0', ' ', 'F', 'F', ']'],
         ['B', 'U', 'I', 'L', 'D', ' ', '[', ']']] =
      some [.getfw, .parse [0x00, 0xFF], .build []] := by decide

/-! One step each. -/

/-- spec/95 V-B07: the sum wraps in the middle. -/
theorem test_build_wraps :
    nextIs (exec (.build [0x4A, 0x01, 0x00]) State.reset) (fun t => decide (t.enc.txf =
      some [0x00, 0x00, 0xFF, 0x04, 0xFC, 0xD4, 0x4A, 0x01, 0x00, 0xE1, 0x00]) && decide (t.enc.estat = .done)) = true := by
  decide
set_option maxRecDepth 8000 in
/-- spec/95 V-B14, P4: refused at 255 bytes. -/
theorem test_build_too_long :
    nextIs (exec (.build (List.replicate 255 0x00)) (encAt [] 7 |>.withEnc (Enc.built [0x02]))) (fun t =>
      decide (t.enc.estat = .refused) && decide (t.enc.txf = none) && decide (t.enc.clen = some 1)) = true := by decide
/-- spec/95 section 5.1, row 6: `CMD[0]` appended, `ACC` from `D4` to `1E`. -/
theorem test_emit_payload :
    nextIs (exec .emit (encAt [0x4A, 0x01, 0x00] 6)) (fun t => decide (t.enc.acc = some 0x1E) &&
      decide (t.enc.txf = some [0x00, 0x00, 0xFF, 0x04, 0xFC, 0xD4, 0x4A]) && decide (t.enc.estat = .busy)) = true := by
  decide
/-- spec/95 section 5.1, last row. -/
theorem test_emit_last :
    nextIs (exec .emit (encAt [0x4A, 0x01, 0x00] 10)) (fun t => decide (t.enc.estat = .done) &&
      decide (t.enc.eidx = some 11) && decide (t.enc.acc = some 0x1F)) = true := by decide
/-- spec/95 V-P30, P5: reject and continue; `SCAN` ends at 11. -/
theorem test_parse_continues :
    nextIs (exec (.parse [0x00, 0x00, 0xFF, 0x05, 0xFC, 0xD5, 0x03, 0x11, 0x22, 0x33, 0x00, 0x00, 0x00, 0xFF, 0x05, 0xFB, 0xD5,
      0x03, 0x32, 0x01, 0x06, 0xEF, 0x00]) State.reset) (fun t => decide (t.dec.dstat = .found) &&
      decide (t.dec.fwIc = some 0x32) && decide (t.dec.scan = some 11)) = true := by decide
/-- spec/95 S2, V-P02: `LEN = 04` is too short (90_conflicts.md C4). -/
theorem test_parse_short :
    nextIs (exec (.parse [0x00, 0x00, 0xFF, 0x04, 0xFC, 0xD5, 0x03, 0x32, 0x01, 0x06, 0xC4, 0x00]) State.reset) (fun t =>
      decide (t.dec.dstat = .notFound) && decide (t.dec.fwIc = none) && decide (t.dec.scan = some 12)) = true := by decide
/-- R143, worked example, first step. -/
theorem test_try_rejects :
    nextIs (exec .tryStep (decAt (0xAA :: s2c) 0)) (fun t => decide (t.dec.scan = some 1) && decide (t.dec.dstat = .busy)) =
      true := by decide
/-- spec/95 section 5.4, step 4: exhaustion. -/
theorem test_try_exhausts :
    nextIs (exec .tryStep (decAt [0xAA, 0xBB, 0xCC] 3)) (fun t => decide (t.dec.dstat = .notFound) &&
      decide (t.dec.scan = some 3)) = true := by decide
/-- spec/95 S1. -/
theorem test_getfw :
    nextIs (exec .getfw State.reset) (fun t => decide (t.enc.txf =
      some [0x00, 0x00, 0xFF, 0x02, 0xFE, 0xD4, 0x02, 0x2A, 0x00])) = true := by decide
/-- R115, R79: rejected, `SCAN` moves on. -/
theorem test_cmdFrame :
    nextIs (exec (.cmdFrame [0x4A, 0x01, 0x00]) (decAt s2c 4)) (fun t => decide (t.dec.scan = some 5)) = true := by decide
/-- spec/95 V-P41. -/
theorem test_getfwCmd :
    nextIs (exec .getfwCmd (decAt s2c 0)) (fun t => decide (t.dec.scan = some 1) && decide (t.dec.fwIc = none)) = true := by
  decide
/-- spec/95 V-P23: another tag. -/
theorem test_rspFrame :
    nextIs (exec (.rspFrame [0x05, 0x32, 0x01, 0x06, 0xED]) (decAt s2c 0)) (fun t => decide (t.dec.scan = some 1)) = true := by
  decide
/-- spec/95 V-P10: the `DCS` plays no part. -/
theorem test_getfwRsp :
    nextIs (exec (.getfwRsp 0x32 0x01 0x06 [0xC4]) (decAt s2c 0)) (fun t => decide (t.dec.fwIc = some 0x32) &&
      decide (t.dec.fwVer = some 0x01) && decide (t.dec.fwRev = some 0x06) && decide (t.dec.scan = some 0)) = true := by decide

/-! Witnesses: a state and operands that meet the hypotheses of each statement. -/

theorem wit_ResetAbandonsOperations : (withAction .reset (encAt [0x02] 3)).host.script = .reset :: [] := rfl

/-- ByteArithmeticWrapsModulo256. -/
theorem wit_lenByte : 254 ≤ 254 ∧ [0x80, (0x01 : Byte)].Perm [0x01, 0x80] := ⟨by decide, List.Perm.swap _ _ _⟩

set_option maxRecDepth 8000 in
/-- BuildProducesFrameOrRefuses, BuildLeavesWholeState, BuiltFrameByteByByte, BuiltFrameInvariants, EmptyCommandIsFramed,
TooLongCommandLeavesNoFrame, GetfwBuildsFirmwareRequest, BuildOutputIsACommandFrame, EmitRunRefinesBuild,
BuiltFramesAreRejectedAtTheirStart, BuildIsPure: both sides of the limit. -/
theorem wit_build :
    State.reset.enc.estat ≠ .busy ∧ ([] : List Byte).length ≤ 254 ∧ (List.replicate 254 (0x01 : Byte)).length ≤ 254 ∧
      255 ≤ (List.replicate 255 (0x01 : Byte)).length ∧ (0 : Nat) < [(0x2C : Byte)].length := by decide

theorem wit_BuiltFramesDetermineTheCommand : buildFrame [0x02] = buildFrame [0x02] ∧ [(0x02 : Byte)].length ≤ 254 := by decide

theorem wit_BuildIsPure : ∃ t u, exec .getfw State.reset = .next t ∧ exec (.build []) t = .next u ∧ t.enc.estat ≠ .busy :=
  ⟨_, _, rfl, rfl, by decide⟩

theorem wit_StartBuildPreparesEncoder : ([] : List Byte).length ≤ 254 ∧ State.reset.enc.estat ≠ .busy := by decide

/-- EmitAppendsNextFrameByte: every offset of a frame with three command bytes, so each clause and each place where two
clauses meet (2 and 3, 5 and 6, `5 + L` and `6 + L`, `7 + L`). -/
theorem wit_EmitAppendsNextFrameByte :
    ∀ k, k ≤ 7 + [(0x4A : Byte), 0x01, 0x00].length →
      (encAt [0x4A, 0x01, 0x00] k).enc.estat = .busy ∧ (encAt [0x4A, 0x01, 0x00] k).enc.cmd = some [0x4A, 0x01, 0x00] ∧
      (encAt [0x4A, 0x01, 0x00] k).enc.clen = some 3 ∧ (encAt [0x4A, 0x01, 0x00] k).enc.acc.isSome = true ∧
      (encAt [0x4A, 0x01, 0x00] k).enc.eidx = some k ∧
      ((encAt [0x4A, 0x01, 0x00] k).enc.txf.map List.length) = some k := by decide

/-- The same for the empty command: the payload clause is empty, the `DCS` follows the `TFI`. -/
theorem wit_EmitAppendsNextFrameByte_empty :
    (encAt [] 6).enc.estat = .busy ∧ (encAt [] 6).enc.eidx = some 6 ∧ 6 ≤ 7 + ([] : List Byte).length ∧
      (encAt [] 7).enc.eidx = some 7 ∧ State.reset.enc.estat ≠ .busy := by decide

theorem wit_EmitChangesOneByteOfTxf : ∃ t, exec .emit (encAt [0x4A] 6) = .next t := ⟨_, rfl⟩

theorem wit_StartParseTakesSnapshot :
    State.reset.dec.dstat ≠ .busy ∧
      rxFits State.reset.params s2c.length = true ∧
      ({ State.reset with params := { rxMax := some 11 } } : State).params.rxMax = some 11 ∧ 11 < s2c.length ∧
      rxFits { rxMax := some 12 } s2c.length = true ∧ State.reset.params.rxMax = none := by decide

/-- ResetLeavesUnitsIdleWithoutValues: the state after an earlier refused `BUILD` and a `PARSE`. -/
theorem wit_ResetLeavesUnitsIdleWithoutValues :
    ((State.reset.withEnc (Enc.built [0x02]).refuse).withDec (Dec.parsed s2c)).enc.estat ≠ .busy ∧
      ((State.reset.withEnc (Enc.built [0x02]).refuse).withDec (Dec.parsed s2c)).dec.dstat ≠ .busy ∧
      rxFits ((State.reset.withEnc (Enc.built [0x02]).refuse).withDec (Dec.parsed s2c)).params 3 = true := by decide

/-- ParseReportsFirstAcceptance, ParseIsTotal, ParseIsPure, TryRunRefinesParse: an accepting offset with all before it
rejected, and a buffer with none. -/
theorem wit_parse :
    State.reset.dec.dstat ≠ .busy ∧ rxFits State.reset.params s2c.length = true ∧ State.reset.params.rxMax = none ∧
      candidate (0xAA :: s2c) (0xAA :: s2c).length 1 = .accept { ic := 0x32, ver := 0x01, rev := 0x06 } ∧
      1 < (0xAA :: s2c).length := by decide

theorem wit_parse_rejections :
    (∀ j, j < 1 → rejectsAt (0xAA :: s2c) j) ∧ (∀ j, j < [(0xAA : Byte), 0xBB, 0xCC].length → rejectsAt [0xAA, 0xBB, 0xCC] j) := by
  constructor
  · intro j hj
    exact ⟨.noStart, by obtain rfl : j = 0 := by omega
                        decide⟩
  · intro j hj
    have h : ∀ j, j < 3 → candidate [0xAA, 0xBB, 0xCC] 3 j = .reject .noStart := by decide
    exact ⟨.noStart, h j hj⟩

theorem wit_ParseIsPure : ∃ t, exec (.parse s2c) State.reset = .next t := ⟨_, rfl⟩

/-- CandidateStepsGiveReasons: the start sequence of `bs` at 0. -/
def starts (bs : List Byte) : Bool :=
  decide (bs[0]? = some 0x00) && decide (bs[1]? = some 0x00) && decide (bs[2]? = some 0xFF)

/-- Each clause of CandidateStepsGiveReasons at its boundary (spec/95 V-P04, V-P13, V-P19 to V-P28, V-P12): two bytes; no
start sequence; four bytes; a wrong
`LCS`; five bytes; another `TFI`; ten and eleven bytes for `LEN = 05`; `LEN` 00 and 01; another tag; `LEN` 02 and 04;
`LEN = 05`. -/
theorem wit_CandidateStepsGiveReasons :
    ([(0x00 : Byte), 0x00].length ≤ 0 + 2) ∧ ([(0x00 : Byte), 0xFF, 0x00][1]? ≠ some 0x00) ∧
    (starts [0x00, 0x00, 0xFF, 0x05] = true ∧ [(0x00 : Byte), 0x00, 0xFF, 0x05].length ≤ 0 + 4) ∧
    (starts [0x00, 0x00, 0xFF, 0x04, 0xFD] = true ∧ add8 0x04 0xFD ≠ 0x00) ∧
    (starts [0x00, 0x00, 0xFF, 0x05, 0xFB] = true ∧ add8 0x05 0xFB = 0x00 ∧
      [(0x00 : Byte), 0x00, 0xFF, 0x05, 0xFB].length ≤ 0 + 5) ∧
    (starts [0x00, 0x00, 0xFF, 0x05, 0xFB, 0xD4] = true ∧ (0xD4 : Byte) ≠ 0xD5) ∧
    (starts (s2c.take 10) = true ∧ (s2c.take 10).length < 0 + 6 + (0x05 : Byte).toNat) ∧
    (starts (s2c.take 11) = true ∧ 0 + 6 + (0x05 : Byte).toNat ≤ (s2c.take 11).length ∧ 5 ≤ (0x05 : Byte).toNat ∧
      (s2c.take 11)[0 + 6]? = some 0x03) ∧
    (starts [0x00, 0x00, 0xFF, 0x00, 0x00, 0xD5] = true ∧ (0x00 : Byte).toNat ≤ 1 ∧ 0 + 6 + (0x00 : Byte).toNat ≤ 6) ∧
    (starts [0x00, 0x00, 0xFF, 0x01, 0xFF, 0xD5, 0x03] = true ∧ (0x01 : Byte).toNat ≤ 1 ∧ add8 0x01 0xFF = 0x00) ∧
    (starts [0x00, 0x00, 0xFF, 0x02, 0xFE, 0xD5, 0x05, 0x00] = true ∧ 2 ≤ (0x02 : Byte).toNat ∧ add8 0x02 0xFE = 0x00) ∧
    (starts [0x00, 0x00, 0xFF, 0x02, 0xFE, 0xD5, 0x03, 0x00] = true ∧ (0x02 : Byte).toNat ≤ 4) ∧
    (starts [0x00, 0x00, 0xFF, 0x04, 0xFC, 0xD5, 0x03, 0x32, 0x01, 0x06] = true ∧ (0x04 : Byte).toNat ≤ 4 ∧
      0 + 6 + (0x04 : Byte).toNat ≤ 10 ∧ add8 0x04 0xFC = 0x00) := by decide

/-- TryMovesAcceptsOrExhausts: a rejecting, an accepting and an exhausted offset. -/
theorem wit_TryMovesAcceptsOrExhausts :
    (decAt s2c 0).dec.dstat = .busy ∧ (decAt s2c 0).dec.rxb = some s2c ∧ (decAt s2c 0).dec.rxn = some s2c.length ∧
      (decAt s2c 0).dec.scan = some 0 ∧ candidate s2c s2c.length 0 = .accept { ic := 0x32, ver := 0x01, rev := 0x06 } ∧
      (decAt s2c 11).dec.scan = some 11 ∧ candidate s2c s2c.length 11 = .reject .noStart ∧ 11 < s2c.length ∧
      (decAt s2c 12).dec.scan = some 12 ∧ s2c.length ≤ 12 ∧ State.reset.dec.dstat ≠ .busy := by decide

theorem wit_LeastAcceptedBufferIsElevenBytes :
    (s2c.take 10).length < 11 ∧ (s2c.take 11).length = 11 ∧ s2c.length < 2 + 11 ∧
      parseFrame (s2c.take 11) = .found { ic := 0x32, ver := 0x01, rev := 0x06 } := by decide

/-- CandidateIsLocalAndShifts: two buffers that differ beyond ten bytes only; noise before a frame (spec/95 V-P09). -/
theorem wit_CandidateIsLocalAndShifts :
    (s2c.length - 0 = (0xAA :: s2c.take 11 ++ [0x77]).length - 1 ∧
      ∀ k, k < 10 → s2c[0 + k]? = (0xAA :: s2c.take 11 ++ [0x77])[1 + k]?) ∧
    candidate s2c s2c.length 0 = .accept { ic := 0x32, ver := 0x01, rev := 0x06 } ∧
    (∀ j, j < 4 → ([0xAA, 0x00, 0xFF, 0x00] ++ s2c)[j + 2]? ≠ some 0xFF ∨ ([0xAA, 0x00, 0xFF, 0x00] ++ s2c)[j]? ≠ some 0x00) := by
  decide

theorem wit_CandidateIsLocalAndShifts_noise :
    (∀ j, j < [(0xAA : Byte), 0x00, 0xFF, 0x00].length → rejectsAt ([0xAA, 0x00, 0xFF, 0x00] ++ s2c) j) ∧
    (∀ j, j < [(0xAA : Byte), 0x00, 0xFF, 0x00].length → ∀ len lcs : Byte, add8 len lcs = 0x00 →
      slice ([0xAA, 0x00, 0xFF, 0x00] ++ s2c) j (j + 6) ≠ [0x00, 0x00, 0xFF, len, lcs, 0xD5]) := by
  constructor
  · have h : ∀ j, j < 4 → candidate ([0xAA, 0x00, 0xFF, 0x00] ++ s2c) 16 j = .reject .noStart := by decide
    exact fun j hj => ⟨.noStart, h j hj⟩
  · have h : ∀ j, j < 4 → (slice ([0xAA, 0x00, 0xFF, 0x00] ++ s2c) j (j + 6)).take 3 ≠ [0x00, 0x00, 0xFF] := by decide
    intro j hj len lcs _ e
    exact h j hj (by rw [e]; rfl)

/-- TruncationAndExtensionOfBuffers: one byte short of the `DCS`, through the `DCS` without the postamble, extended. -/
theorem wit_TruncationAndExtensionOfBuffers :
    slice (s2c.take 10) 0 (0 + 6) = [0x00, 0x00, 0xFF, 0x05, 0xFB, 0xD5] ∧ add8 0x05 0xFB = 0x00 ∧
      (s2c.take 10).length ≤ 0 + 5 + (0x05 : Byte).toNat ∧ 0 + 6 + (0x05 : Byte).toNat ≤ (s2c.take 11).length ∧
      candidate s2c s2c.length 0 = .accept { ic := 0x32, ver := 0x01, rev := 0x06 } ∧
      parseFrame s2c = .found { ic := 0x32, ver := 0x01, rev := 0x06 } := by decide

theorem wit_EchoOfRequestIsTransparent :
    (∃ s1 e, exec .getfw State.reset = .next s1 ∧ s1.enc.txf = some e ∧
      rxFits State.reset.params (e ++ s2c).length = true) ∧
    s2c.take 2 ≠ [0x00, 0xFF] ∧ State.reset.enc.estat ≠ .busy ∧ State.reset.dec.dstat ≠ .busy :=
  ⟨⟨_, _, rfl, rfl, by decide⟩, by decide, by decide, by decide⟩

theorem wit_NestedFrameIsFound : 1 ≤ 1 ∧ 5 ≤ 5 := by decide

/-- CommandFramesMoveScanOn, ResponseFrameIsDecidedByItsPayload, FirmwareResponseIsReported: a busy parser; bodies on both
sides of the limit, with another tag, and with the tag. -/
theorem wit_frames :
    (decAt s2c 4).dec.dstat = .busy ∧ (decAt s2c 4).dec.scan = some 4 ∧
      ([] : List Byte).length ≤ 4 ∧ [(0x03 : Byte), 0x32, 0x01, 0x06].length ≤ 4 ∧
      [(0x05 : Byte), 0x32, 0x01, 0x06, 0xED].head? ≠ some 0x03 ∧
      [(0x03 : Byte), 0x32, 0x01, 0x06, 0xEF] = 0x03 :: 0x32 :: 0x01 :: 0x06 :: 0xEF :: [] ∧ [(0xEF : Byte)] ≠ [] := by decide

theorem wit_DecStepsKeepTheBuffer :
    (∃ t, isDecMicro .tryStep = true ∧ exec .tryStep (decAt s2c 0) = .next t ∧ t.dec.dstat ≠ .busy) ∧
    (∃ t, isDecMicro .getfwCmd = true ∧ exec .getfwCmd (decAt s2c 0) = .next t ∧ t.dec.dstat = .busy ∧ t.dec.dstat ≠ .found) :=
  ⟨⟨_, rfl, rfl, by decide⟩, ⟨_, rfl, rfl, by decide, by decide⟩⟩

theorem wit_FramesNeedABusyParser : isDecMicro (.rspFrame []) = true ∧ State.reset.dec.dstat ≠ .busy := by decide

/-- StepRunsTheFetchedFrame, FetchedFrameAgreesWithTry: a frame at `SCAN`, with and without a script; HOST's lines; turns of
units that are not busy; nothing to do. -/
theorem wit_StepRunsTheFetchedFrame :
    (withAction .decTurn (decAt s2c 0)).host.script = [.decTurn] ∧ (decAt s2c 0).host.script = [] ∧
      (decAt s2c 0).enc.estat ≠ .busy ∧ (decAt s2c 0).dec.dstat = .busy ∧ (decAt s2c 0).dec.rxb = some s2c ∧
      (decAt s2c 0).dec.rxn = some 12 ∧ (decAt s2c 0).dec.scan = some 0 ∧ s2c.length = 12 ∧
      decode (slice s2c 0 12) = .ok (.getfwRsp 0x32 0x01 0x06 [0xEF]) [0x00] ∧
      (withAction (.build [0x02]) State.reset).host.script = [.build [0x02]] ∧
      (withAction (.parse s2c) State.reset).host.script = [.parse s2c] ∧
      (withAction .getfw State.reset).host.script = [.getfw] ∧
      (withAction (.startBuild [0x02]) State.reset).host.script = [.startBuild [0x02]] ∧
      (withAction (.startParse s2c) State.reset).host.script = [.startParse s2c] ∧
      (withAction .encTurn (encAt [0x02] 0)).host.script = [.encTurn] ∧ (encAt [0x02] 0).enc.estat = .busy ∧
      (encAt [0x02] 0).host.script = [] ∧ State.reset.enc.estat ≠ .busy ∧
      (withAction .encTurn State.reset).host.script = [.encTurn] ∧
      (withAction .decTurn State.reset).host.script = [.decTurn] ∧
      State.reset.host.script = [] ∧ State.reset.dec.dstat ≠ .busy := by decide

/-- StepRunsTheFetchedFrame, no frame at `SCAN`: between frames, and at the end of the buffer, where the slice is empty. -/
theorem wit_StepRunsTheFetchedFrame_noFrame :
    decode (slice s2c 1 12) = .rejected .notStart ∧ decode (slice s2c 12 12) = .rejected .truncated ∧
      (decAt s2c 12).dec.scan = some 12 ∧ (decAt s2c 12).dec.rxn = some 12 ∧
      (decAt s2c 1).dec.dstat = .busy ∧ (decAt s2c 1).dec.rxb = some s2c ∧ (decAt s2c 1).dec.rxn = some 12 ∧
      (decAt s2c 1).dec.scan = some 1 ∧ (decAt s2c 1).host.script = [] ∧ (decAt s2c 1).enc.estat ≠ .busy ∧
      (withAction .decTurn (decAt s2c 1)).host.script = [.decTurn] := by decide

theorem wit_DecodeEncodeRoundTrip :
    (Instr.cmdFrame [0x4A]).wf = true ∧ (encode (.cmdFrame [0x4A])).isSome = true ∧
      Instr.getfwCmd.wf = true ∧ (encode .getfwCmd).isSome = true ∧
      (Instr.rspFrame []).wf = true ∧ (encode (.rspFrame [])).isSome = true ∧
      (Instr.getfwRsp 0x32 0x01 0x06 [0xEF]).wf = true ∧ (encode (.getfwRsp 0x32 0x01 0x06 [0xEF])).isSome = true := by decide

theorem wit_DecodedBytesAreTheEncoding :
    decode [0x00, 0x00, 0xFF, 0x00, 0x00, 0xD5] = .ok (.rspFrame []) [] := by decide

theorem wit_ProgramLinesReadBack :
    renderLine (.build [0x4A, 0x01]) = some ['B', 'U', 'I', 'L', 'D', ' ', '[', '4', 'A', ' ', '0', '1', ']'] ∧
      renderLine (.parse []) = some ['P', 'A', 'R', 'S', 'E', ' ', '[', ']'] ∧
      renderLine .getfw = some ['G', 'E', 'T', 'F', 'W'] := by decide

/-- ReadsWithoutValueAreRefused: a stale frame under `E_BUSY` is no value; each read; the invariant in busy states. -/
theorem wit_ReadsWithoutValueAreRefused :
    (encAt [0x02] 3).enc.estat ≠ .done ∧ (withAction (.readTxf 0) (encAt [0x02] 3)).host.script = [.readTxf 0] ∧
      (withAction .readFrame State.reset).host.script = [.readFrame] ∧ State.reset.dec.dstat ≠ .found ∧
      (withAction .readIc State.reset).host.script = [.readIc] ∧ (withAction .readVer State.reset).host.script = [.readVer] ∧
      (withAction .readRev State.reset).host.script = [.readRev] := by decide

theorem wit_Inv_busy : (encAt [0x02] 3).Inv ∧ (encAt [0x02] 3).enc.estat = .busy ∧
    (decAt s2c 0).Inv ∧ (decAt s2c 0).dec.dstat = .busy :=
  ⟨⟨⟨[0x02], 3, by decide, by decide, rfl⟩, rfl⟩, rfl,
   ⟨rfl, ⟨s2c, 0, rfl, by decide, fun _ h => absurd h (by omega), rfl⟩⟩, rfl⟩

theorem wit_ReadsUnderTheHandshakeDeliver :
    (∃ f, (State.reset.withEnc (Enc.built [0x02])).enc.txf = some f ∧ f[8]? = some 0x00) ∧
      (State.reset.withEnc (Enc.built [0x02])).enc.estat = .done ∧
      (State.reset.withDec (Dec.parsed s2c)).dec.dstat = .found ∧
      (State.reset.withDec (Dec.parsed s2c)).dec.fwIc = some 0x32 ∧
      (State.reset.withDec (Dec.parsed s2c)).dec.fwVer = some 0x01 ∧
      (State.reset.withDec (Dec.parsed s2c)).dec.fwRev = some 0x06 ∧
      (State.reset.withDec (Dec.parsed [])).dec.dstat = .notFound ∧
      (withAction .collect State.reset).host.script = [.collect] ∧ State.reset.dec.dstat = .idle ∧
      (withAction .collect (decAt s2c 1)).host.script = [.collect] ∧ (decAt s2c 1).dec.dstat = .busy ∧
      (withAction .readEstat State.reset).host.script = [.readEstat] ∧
      (withAction .readDstat State.reset).host.script = [.readDstat] :=
  ⟨⟨_, rfl, by decide⟩, by decide⟩

theorem wit_StartWhileBusyHasNoEffect : (encAt [0x02] 3).enc.estat = .busy ∧ (decAt s2c 0).dec.dstat = .busy := by decide

theorem wit_UnitsAreDisjoint :
    (∃ t, onEnc .emit = true ∧ exec .emit (encAt [0x02] 3) = .next t) ∧
    (∃ t, onEnc .tryStep = false ∧ exec .tryStep (decAt s2c 0) = .next t) := ⟨⟨_, rfl, rfl⟩, ⟨_, rfl, rfl⟩⟩

theorem wit_MicroStepsCommute :
    ∃ t u, isDecMicro .tryStep = true ∧ exec .emit ((encAt [0x02] 3).withDec (Dec.scanning s2c 1)) = .next t ∧
      exec .tryStep ((encAt [0x02] 3).withDec (Dec.scanning s2c 1)) = .next u := ⟨_, _, rfl, rfl, rfl⟩

theorem wit_ResultsStayUntilTheNextStart :
    ∃ t, step (withAction (.parse s2c) (State.reset.withEnc (Enc.built [0x02]))) = .next t ∧
      (State.reset.withEnc (Enc.built [0x02])).enc.estat ≠ .busy ∧ startsEnc (.parse s2c) = false ∧
      startsDec (.build [0x02]) = false := ⟨_, rfl, by decide, rfl, rfl⟩

theorem wit_BuildInProgressIsNotDisturbed :
    ∃ t, step (withAction (.build [0x4A]) (encAt [0x02] 3)) = .next t ∧ (encAt [0x02] 3).enc.estat = .busy ∧
      ∀ as, (withAction (.build [0x4A]) (encAt [0x02] 3)).host.script ≠ .reset :: as :=
  ⟨_, rfl, rfl, fun as h => by simp [withAction] at h⟩

/-- ParseInProgressIsNotDisturbed: a start while busy; a fetched frame; a `TRY` where no frame stands. -/
theorem wit_ParseInProgressIsNotDisturbed :
    (∃ t, step (withAction (.parse [0xAA]) (decAt s2c 0)) = .next t ∧
      ∀ as, (withAction (.parse [0xAA]) (decAt s2c 0)).host.script ≠ .reset :: as) ∧
    (∃ t, step (withAction .decTurn (decAt s2c 0)) = .next t) ∧ (∃ t, step (decAt s2c 1) = .next t) ∧
    (decAt s2c 0).dec.dstat = .busy ∧ (decAt s2c 1).dec.dstat = .busy :=
  ⟨⟨_, rfl, fun as h => by simp [withAction] at h⟩, ⟨_, rfl⟩, ⟨_, rfl⟩, rfl, rfl⟩

/-- spec/95 section 5.4, step 1: a turn of `DEC` where no frame stands rejects the offset. -/
theorem test_dec_turn_without_frame :
    nextIs (step (withAction .decTurn (decAt [0xAA, 0xBB, 0xCC] 0))) (fun t => decide (t.dec.scan = some 1) &&
      decide (t.dec.dstat = .busy) && decide (t.dec.fwIc = none)) = true := by decide

/-- Also of StepKeepsTheParameter. -/
theorem wit_StepKeepsTheInvariant : ∃ t, (encAt [0x02] 3).Inv ∧ step (encAt [0x02] 3) = .next t :=
  ⟨_, wit_Inv_busy.1, rfl⟩

/-! What the model stops on, seen from the outside. -/

/-- R40: no value after reset. -/
theorem test_read_before_build_refused : refusedAs (step (withAction (.readTxf 0) State.reset)) (.noValue .txf) = true := by
  decide
/-- R111: not enabled after reset. -/
theorem test_emit_not_enabled : refusedAs (exec .emit State.reset) .encNotBusy = true := by decide
/-- R10, R55: `TXF` has no byte 9 after `GETFW`. -/
theorem test_read_beyond_frame_refused :
    refusedAs (step (withAction (.readTxf 9) (State.reset.withEnc (Enc.built [0x02])))) (.badIndex .txf 9) = true := by decide

end Sys2Proof.Tests
end

section
/-! The two units share no state (spec/10_state.md R21). A step "ignores" a unit when it leaves that unit as it is and does
the same whatever state the unit is in; each shared operation of one unit ignores the other, so each instruction does. -/

namespace Sys2Proof.Machine

/-- The step neither changes nor reads `DEC`. -/
def IgnoresDec (k : State → Out) : Prop :=
  ∀ (s t : State) (d : Dec), k s = .next t → t.dec = s.dec ∧ k (s.withDec d) = .next (t.withDec d)

/-- The step neither changes nor reads `ENC`. -/
def IgnoresEnc (k : State → Out) : Prop :=
  ∀ (s t : State) (e : Enc), k s = .next t → t.enc = s.enc ∧ k (s.withEnc e) = .next (t.withEnc e)

section
variable (s : State) (e : Enc) (d : Dec) (r : Reply)

theorem State.withDec_withEnc : (s.withDec d).withEnc e = (s.withEnc e).withDec d := rfl
theorem State.withDec_withReply : (s.withDec d).withReply r = (s.withReply r).withDec d := rfl
theorem State.withEnc_withReply : (s.withEnc e).withReply r = (s.withReply r).withEnc e := rfl

end

/-- A start on `ENC` reads `ESTAT` and its operand only (R100). -/
theorem startEnc_ignoresDec (c : List Byte) (e : Enc) : IgnoresDec (startEnc c e) := by
  intro s t d h
  rcases startEnc_cases c e s with ⟨hb, hs⟩ | ⟨hb, hc, hs⟩ | ⟨hb, hc, hs⟩ <;> rw [hs] at h <;> cases h
  · exact ⟨rfl, by simp [startEnc, hb, State.withDec_withReply]⟩
  · exact ⟨rfl, by simp [startEnc, hb, hc, State.withDec_withReply, State.withDec_withEnc]⟩
  · exact ⟨rfl, by simp [startEnc, hb, Nat.not_lt.mpr hc, State.withDec_withReply, State.withDec_withEnc]⟩

/-- A start on `DEC` reads `DSTAT`, its operand and the parameter only (R130). -/
theorem startDec_ignoresEnc (b : List Byte) (d : Dec) : IgnoresEnc (startDec b d) := by
  intro s t e h
  rcases startDec_cases b d s with ⟨hb, hs⟩ | ⟨-, -, hs⟩ | ⟨hb, hf, hs⟩ <;> rw [hs] at h <;> cases h
  · exact ⟨rfl, by simp [startDec, hb, State.withEnc_withReply]⟩
  · exact ⟨rfl, by simp [startDec, hb, hf, ← State.withDec_withEnc, State.withEnc_withReply]⟩

/-- `EMIT` reads the registers and buffers of `ENC` only (R111). -/
theorem execEmit_ignoresDec : IgnoresDec execEmit := by
  intro s t d h
  obtain ⟨hb, k, l, cmd, acc, txf, b, acc', hk, hl, hc, ha, ht, hba, hlen, rfl⟩ := execEmit_next h
  have happ : memAppend txf k b = some (txf ++ [b]) := memAppend_eq_some.mpr ⟨hlen, rfl⟩
  exact ⟨rfl, by simp [execEmit, whenEncBusy, hb, hk, hl, hc, ha, ht, hba, happ, State.withDec_withEnc]⟩

/-- A verdict is applied by `SCAN` and the verdict only (R143). -/
theorem applyVerdict_ignoresEnc (v : Verdict) : IgnoresEnc (applyVerdict v) := by
  intro s t e h
  obtain ⟨i, hi, ⟨fw, rfl, rfl⟩ | ⟨why, rfl, rfl⟩⟩ := applyVerdict_next h
  · exact ⟨rfl, by simp [applyVerdict, hi, acceptCandidate, ← State.withDec_withEnc]⟩
  · exact ⟨rfl, by simp [applyVerdict, hi, rejectCandidate, ← State.withDec_withEnc]⟩

/-- The test whether `DEC` is busy does not look at `ENC`. -/
theorem IgnoresEnc.whenDecBusy {k : State → Out} (hk : IgnoresEnc k) : IgnoresEnc (whenDecBusy k) := by
  intro s t e h
  obtain ⟨hb, h⟩ := whenDecBusy_next h
  obtain ⟨henc, hrun⟩ := hk s t e h
  exact ⟨henc, by simp [Machine.whenDecBusy, hb, hrun]⟩

theorem meetFrame_ignoresEnc (tfi : Byte) (body : List Byte) : IgnoresEnc (meetFrame tfi body) :=
  (applyVerdict_ignoresEnc _).whenDecBusy

/-- `TRY` reads the registers and the buffer of `DEC` only (R143). -/
theorem execTry_ignoresEnc : IgnoresEnc execTry := by
  intro s t e h
  obtain ⟨hb, i, n, hi, hn, ⟨hni, rfl⟩ | ⟨hin, b, hrxb, hv⟩⟩ := execTry_next h
  · exact ⟨rfl, by simp [execTry, whenDecBusy, hb, hi, hn, hni, ← State.withDec_withEnc]⟩
  · obtain ⟨henc, hrun⟩ := applyVerdict_ignoresEnc _ s t e hv
    exact ⟨henc, by simp [execTry, whenDecBusy, hb, hi, hn, Nat.not_le.mpr hin, hrxb, hrun]⟩

/-- An instruction of `ENC` ignores `DEC`. -/
theorem exec_ignoresDec {i : Instr} (hi : onEnc i = true) : IgnoresDec (exec i) := by
  cases i with
  | build c => exact startEnc_ignoresDec c _
  | emit => exact execEmit_ignoresDec
  | getfw => exact startEnc_ignoresDec _ _
  | parse | tryStep | cmdFrame | getfwCmd | rspFrame | getfwRsp => cases hi

/-- An instruction of `DEC`, a frame met at `SCAN` among them (log 3), ignores `ENC`. -/
theorem exec_ignoresEnc {i : Instr} (hi : onEnc i = false) : IgnoresEnc (exec i) := by
  cases i with
  | parse b => exact startDec_ignoresEnc b _
  | tryStep => exact execTry_ignoresEnc
  | cmdFrame | getfwCmd | rspFrame | getfwRsp => exact meetFrame_ignoresEnc _ _
  | build | emit | getfw => cases hi

/-- Settles O50: every instruction of one unit ignores the other, instruction by instruction. -/
theorem unitsAreDisjoint : Obligations.UnitsAreDisjoint :=
  ⟨fun _ s t d hi => exec_ignoresDec hi s t d, fun _ s t e hi => exec_ignoresEnc hi s t e⟩

end Sys2Proof.Machine
end

section
/-! What `BUILD` leaves in `TXF`, and reading the command back from a built frame (spec/30_encoding.md R88). -/

namespace Sys2Proof.Machine

/-- R107 written out: the model's running sum over the command starts from the sum of the `TFI`. -/
theorem buildFrame_eq (c : List Byte) :
    buildFrame c = [0x00, 0x00, 0xFF, BitVec.ofNat 8 (c.length + 1), neg8 (BitVec.ofNat 8 (c.length + 1)), 0xD4] ++ c ++
      [neg8 (sum8 (0xD4 :: c)), 0x00] := rfl

/-- A `BUILD` whose command fits produces its frame. -/
theorem exec_build_of_fits {c : List Byte} {s : State} (hs : s.enc.estat ≠ .busy) (hc : c.length ≤ 254) :
    exec (.build c) s = .next ((s.withEnc (Enc.built c)).withReply .accepted) := by
  rcases startEnc_cases c (Enc.built c) s with ⟨hb, -⟩ | ⟨-, hlong, -⟩ | ⟨-, -, h⟩
  · exact absurd hb hs
  · exact absurd hc (Nat.not_le.mpr hlong)
  · exact h

/-- A `BUILD` that ends in `E_DONE` had a command that fits: a refusal ends in `E_REFUSED`. -/
theorem exec_build_done {c : List Byte} {s t : State} (hs : s.enc.estat ≠ .busy) (h : exec (.build c) s = .next t)
    (hdone : t.enc.estat = .done) : c.length ≤ 254 ∧ t.enc.txf = some (buildFrame c) := by
  change startEnc c (Enc.built c) s = .next t at h
  rcases startEnc_cases c (Enc.built c) s with ⟨hb, -⟩ | ⟨-, -, hrun⟩ | ⟨-, hc, hrun⟩
  · exact absurd hb hs
  · rw [hrun] at h
    cases h
    cases hdone
  · rw [hrun] at h
    cases h
    exact ⟨hc, rfl⟩

/-- The frames that `ENC` can produce are the frames of the commands that fit. -/
theorem exec_build_produces_iff (f : List Byte) :
    (∃ c s t, s.enc.estat ≠ .busy ∧ exec (.build c) s = .next t ∧ t.enc.estat = .done ∧ t.enc.txf = some f) ↔
      ∃ c : List Byte, c.length ≤ 254 ∧ f = buildFrame c := by
  constructor
  · rintro ⟨c, s, t, hs, h, hdone, htxf⟩
    obtain ⟨hc, hbuilt⟩ := exec_build_done hs h hdone
    exact ⟨c, hc, Option.some.inj (htxf.symm.trans hbuilt)⟩
  · rintro ⟨c, hc, rfl⟩
    exact ⟨c, State.reset, _, by decide, exec_build_of_fits (by decide) hc, rfl, rfl⟩

/-- The command stands in its frame behind the six bytes of the header. -/
theorem slice_buildFrame (c : List Byte) : slice (buildFrame c) 6 (6 + c.length) = c := by
  simp [buildFrame_eq, slice]

/-- R88: `TXF[3]` is one more than the command's length, so `TXF[6 : 6 + TXF[3] - 1]` is the command. -/
theorem buildFrame_readBack {c : List Byte} (hc : c.length ≤ 254) :
    ∃ len : Byte, (buildFrame c)[3]? = some len ∧ slice (buildFrame c) 6 (6 + len.toNat - 1) = c := by
  refine ⟨BitVec.ofNat 8 (c.length + 1), rfl, ?_⟩
  have hlen : 6 + (BitVec.ofNat 8 (c.length + 1)).toNat - 1 = 6 + c.length := by
    rw [BitVec.toNat_ofNat]
    omega
  rw [hlen, slice_buildFrame]

/-- Commands that fit are determined by their frames: both are read back by the same slice. -/
theorem buildFrame_injective {c d : List Byte} (hc : c.length ≤ 254) (hd : d.length ≤ 254)
    (h : buildFrame c = buildFrame d) : c = d := by
  obtain ⟨len, hlen, hreadc⟩ := buildFrame_readBack hc
  obtain ⟨len', hlen', hreadd⟩ := buildFrame_readBack hd
  rw [h] at hlen hreadc
  obtain rfl : len = len' := Option.some.inj (hlen.symm.trans hlen')
  exact hreadc.symm.trans hreadd

/-- Settles O9: the frames are those of `BUILD`'s two outcomes, and the read-back gives injectivity. -/
theorem builtFramesDetermineTheCommand : Obligations.BuiltFramesDetermineTheCommand :=
  ⟨exec_build_produces_iff, fun _ _ => buildFrame_injective, fun _ => buildFrame_readBack⟩

end Sys2Proof.Machine
end

section
/-! The byte operations, the running sum and the checksums as numbers modulo 256 (spec/40_frame_builder.md R113). -/

namespace Sys2Proof.Machine

/-- R113 (a): the carry is discarded. -/
theorem add8_toNat (a b : Byte) : (add8 a b).toNat = (a.toNat + b.toNat) % 256 := by
  rw [add8, BitVec.toNat_ofNat]

/-- R113 (c): the complement is taken modulo 256. -/
theorem neg8_toNat (a : Byte) : (neg8 a).toNat = (256 - a.toNat) % 256 := by
  rw [neg8, BitVec.toNat_ofNat]

/-- R113 (c): the two's complement is the one's complement plus one. -/
theorem neg8_eq_not8_add_one (a : Byte) : neg8 a = add8 (not8 a) 0x01 := by
  rw [neg8_eq, add8_eq, not8_eq]
  exact BitVec.neg_eq_not_add a

theorem neg8_neg8 (a : Byte) : neg8 (neg8 a) = a := by
  rw [neg8_eq, neg8_eq, BitVec.neg_neg]

/-- A byte and its complement add to zero (R73, R76). -/
theorem add8_neg8_self (a : Byte) : add8 a (neg8 a) = 0x00 := by
  rw [add8_eq, neg8_eq]
  exact BitVec.add_right_neg a

/-- R102: the complement of a byte that is not zero is the number 256 less it, and is not zero either. -/
theorem neg8_toNat_of_pos {a : Byte} (ha : 1 ≤ a.toNat) : (neg8 a).toNat = 256 - a.toNat := by
  rw [neg8_toNat]
  omega

theorem neg8_ne_zero_of_pos {a : Byte} (ha : 1 ≤ a.toNat) : neg8 a ≠ 0x00 := by
  intro h
  have htoNat := neg8_toNat_of_pos ha
  have hzero : (neg8 a).toNat = 0 := by rw [h]; rfl
  have hlt := a.isLt
  omega

/-- R113 (d): `LEN` does not wrap for a command that fits. -/
theorem lenByte_toNat {l : Nat} (hl : l ≤ 254) : (BitVec.ofNat 8 (l + 1) : Byte).toNat = l + 1 := by
  rw [BitVec.toNat_ofNat]
  omega

/-- R113 (b): masking at each step or once at the end gives the same sum. -/
theorem sum8_toNat (s : List Byte) : (sum8 s).toNat = (s.map BitVec.toNat).sum % 256 := by
  induction s with
  | nil => rfl
  | cons b t ih => rw [sum8_cons, BitVec.toNat_add, ih, List.map_cons, List.sum_cons, Nat.add_mod_mod]

/-- R113 (e): the running sum does not depend on the order of the bytes. -/
theorem sum8_perm {s t : List Byte} (h : s.Perm t) : sum8 s = sum8 t := by
  apply BitVec.eq_of_toNat_eq
  rw [sum8_toNat, sum8_toNat, (h.map BitVec.toNat).sum_eq]

/-- R113 (e): nor does the data checksum. -/
theorem dcsOf_perm (tfi : Byte) {c d : List Byte} (h : c.Perm d) : dcsOf tfi c = dcsOf tfi d := by
  rw [dcsOf, dcsOf, sum8_perm (h.cons tfi)]

/-- Settles O3: the laws of the byte operations above, and the rule's examples computed. -/
theorem byteArithmeticWrapsModulo256 : Obligations.ByteArithmeticWrapsModulo256 :=
  ⟨add8_toNat, sum8_toNat, fun a => ⟨neg8_toNat a, neg8_eq_not8_add_one a, neg8_neg8 a⟩, by decide, by decide,
    fun _ => lenByte_toNat, fun _ _ => dcsOf_perm 0xD4, by decide, by decide, by decide⟩

end Sys2Proof.Machine
end

section
/-! The bytes of a built frame (spec/40_frame_builder.md R101 to R106, R114). -/

namespace Sys2Proof.Machine

variable (c : List Byte)

theorem buildFrame_length : (buildFrame c).length = c.length + 8 := by
  simp [buildFrame_eq]

theorem memRead_buildFrame_payload {j : Nat} (hj : j < c.length) : memRead (buildFrame c) (6 + j) = memRead c j := by
  simp [buildFrame_eq, memRead, Nat.add_comm 6 j, List.getElem?_append_left hj]

theorem buildFrame_getElem?_dcs : (buildFrame c)[6 + c.length]? = some (neg8 (sum8 (0xD4 :: c))) := by
  simp [buildFrame_eq, Nat.add_comm 6]

theorem buildFrame_getElem?_postamble : (buildFrame c)[7 + c.length]? = some 0x00 := by
  simp [buildFrame_eq, Nat.add_comm 7]

/-- R105: every byte is the `DCS` of some frame, of a command of one byte already. -/
theorem exists_buildFrame_dcs (v : Byte) :
    ∃ c : List Byte, c.length ≤ 254 ∧ (buildFrame c)[6 + c.length]? = some v := by
  refine ⟨[-v - 0xD4], Nat.le_add_left 1 253, ?_⟩
  rw [buildFrame_getElem?_dcs, neg8_eq, sum8_cons, sum8_cons, sum8_nil]
  simp

/-- `TFI`, payload and `DCS` are the bytes from index 5 to the postamble. -/
theorem slice_buildFrame_summed :
    slice (buildFrame c) 5 ((buildFrame c).length - 1) = (0xD4 :: c) ++ [neg8 (sum8 (0xD4 :: c))] := by
  rw [buildFrame_length]
  simp [buildFrame_eq, slice, List.take_length_add_append]

/-- R114 (f): `TFI`, payload and `DCS` add to zero. -/
theorem sum8_buildFrame_summed : sum8 (slice (buildFrame c) 5 ((buildFrame c).length - 1)) = 0x00 := by
  rw [slice_buildFrame_summed, sum8_snoc, add8_neg8_self]

theorem buildFrame_getElem?_last : (buildFrame c)[(buildFrame c).length - 1]? = some 0x00 := by
  rw [buildFrame_length, show c.length + 8 - 1 = 7 + c.length by omega, buildFrame_getElem?_postamble]

/-- Settles O7: `BUILD` leaves the frame of its command, and each byte of a frame is given by its lemma above. -/
theorem builtFrameByteByByte : Obligations.BuiltFrameByteByByte := by
  refine ⟨exists_buildFrame_dcs, fun c s hs hc => ?_⟩
  have hlen := lenByte_toNat hc
  have hpos : 1 ≤ (BitVec.ofNat 8 (c.length + 1) : Byte).toNat := by omega
  exact ⟨_, buildFrame c, exec_build_of_fits hs hc, rfl, buildFrame_length c, rfl, rfl, rfl,
    ⟨_, rfl, hlen, _, rfl, neg8_toNat_of_pos hpos, neg8_ne_zero_of_pos hpos⟩, rfl,
    fun _ => memRead_buildFrame_payload c, buildFrame_getElem?_dcs c, buildFrame_getElem?_postamble c⟩

/-- Settles O8: `BUILD` leaves the frame of its command, whose `LEN` and `LCS`, and whose `TFI`, payload and `DCS`, add to
zero because a byte and its complement do. -/
theorem builtFrameInvariants : Obligations.BuiltFrameInvariants := fun c _ hs hc =>
  ⟨_, buildFrame c, exec_build_of_fits hs hc, rfl, buildFrame_length c, rfl,
    ⟨_, _, rfl, rfl, lenByte_toNat hc, add8_neg8_self _⟩, rfl, slice_buildFrame c, sum8_buildFrame_summed c,
    buildFrame_getElem?_last c⟩

end Sys2Proof.Machine
end

section
/-! What a start on `ENC` does, by the length of the command, and what it leaves alone (spec/40_frame_builder.md R100, R107
to R110). -/

namespace Sys2Proof.Machine

section
variable {c : List Byte} {s t : State}

theorem startEnc_of_fits (e : Enc) (hs : s.enc.estat ≠ .busy) (hc : c.length ≤ 254) :
    startEnc c e s = .next ((s.withEnc e).withReply .accepted) := by
  rcases startEnc_cases c e s with ⟨hb, -⟩ | ⟨-, hlong, -⟩ | ⟨-, -, h⟩
  · exact absurd hb hs
  · exact absurd hc (Nat.not_le.mpr hlong)
  · exact h

theorem startEnc_of_long (e : Enc) (hs : s.enc.estat ≠ .busy) (hc : 255 ≤ c.length) :
    startEnc c e s = .next ((s.withEnc s.enc.refuse).withReply (.declined .cmdTooLong)) := by
  rcases startEnc_cases c e s with ⟨hb, -⟩ | ⟨-, -, h⟩ | ⟨-, hfits, -⟩
  · exact absurd hb hs
  · exact h
  · exact absurd hfits (Nat.not_le.mpr hc)

/-- A `BUILD` whose command is too long is refused (R109). -/
theorem exec_build_of_long (hs : s.enc.estat ≠ .busy) (hc : 255 ≤ c.length) :
    exec (.build c) s = .next ((s.withEnc s.enc.refuse).withReply (.declined .cmdTooLong)) :=
  startEnc_of_long _ hs hc

/-- A start on `ENC`, taken or turned away, writes `ENC` and HOST's answer only. -/
theorem startEnc_frame {e : Enc} (h : startEnc c e s = .next t) :
    t.dec = s.dec ∧ t.params = s.params ∧ t.host.script = s.host.script := by
  rcases startEnc_cases c e s with ⟨-, hrun⟩ | ⟨-, -, hrun⟩ | ⟨-, -, hrun⟩
  all_goals
    rw [hrun] at h
    cases h
    exact ⟨rfl, rfl, rfl⟩

end

/-- What `BUILD C` leaves in `TXF`, as a function of the command (R107). -/
def builtTxf (c : List Byte) : Option (List Byte) := if c.length ≤ 254 then some (buildFrame c) else none

/-- What `BUILD C` leaves in `ESTAT`, as a function of the command (R107). -/
def builtEstat (c : List Byte) : EStat := if c.length ≤ 254 then .done else .refused

/-- R107, R110: whatever the state, a `BUILD` that is taken leaves `TXF` and `ESTAT` as its command says. -/
theorem exec_build_result (c : List Byte) {s : State} (hs : s.enc.estat ≠ .busy) :
    ∃ t, exec (.build c) s = .next t ∧ t.enc.txf = builtTxf c ∧ t.enc.estat = builtEstat c := by
  by_cases hc : c.length ≤ 254
  · exact ⟨_, exec_build_of_fits hs hc, by simp [builtTxf, hc], by simp [builtEstat, hc]⟩
  · exact ⟨_, exec_build_of_long hs (by omega), by simp [builtTxf, hc], by simp [builtEstat, hc]⟩

theorem builtEstat_ne_busy (c : List Byte) : builtEstat c ≠ .busy := by
  unfold builtEstat
  split <;> decide

/-- Settles O5: the result of `BUILD` on either side of the limit. -/
theorem buildProducesFrameOrRefuses : Obligations.BuildProducesFrameOrRefuses := by
  intro c s hs
  obtain ⟨t, h, htxf, hestat⟩ := exec_build_result c hs
  refine ⟨t, h, fun hc => ?_, fun hc => ?_⟩
  · rw [htxf, hestat, builtTxf, builtEstat, if_pos hc, if_pos hc, buildFrame_eq]
    exact ⟨rfl, rfl⟩
  · rw [htxf, hestat, builtTxf, builtEstat, if_neg (by omega), if_neg (by omega)]
    exact ⟨rfl, rfl⟩

/-- Settles O10: the frame of the empty command, computed. -/
theorem emptyCommandIsFramed : Obligations.EmptyCommandIsFramed := fun _ hs =>
  ⟨_, exec_build_of_fits hs (Nat.zero_le 254), rfl, rfl⟩

/-- Settles O13: `BUILD` and `GETFW` are starts on `ENC`, and the result of `BUILD` is a function of its command. -/
theorem buildIsPure : Obligations.BuildIsPure := by
  refine ⟨?_, fun c s s' hs hs' => ?_⟩
  · rintro i s t (rfl | ⟨c, rfl⟩) h
    · exact startEnc_frame h
    · exact startEnc_frame h
  · obtain ⟨t, h, htxf, hestat⟩ := exec_build_result c hs
    obtain ⟨t', h', htxf', hestat'⟩ := exec_build_result c hs'
    exact ⟨t, t', h, h', htxf.trans htxf'.symm, hestat.trans hestat'.symm⟩

/-- Settles O14: the start action by the length of the command; the atomic `BUILD` leaves `E_DONE` or `E_REFUSED`. -/
theorem startBuildPreparesEncoder : Obligations.StartBuildPreparesEncoder := by
  intro c s hs
  have hatomic : ∃ u, exec (.build c) s = .next u ∧ u.enc.estat ≠ .busy := by
    obtain ⟨u, h, -, hestat⟩ := exec_build_result c hs
    exact ⟨u, h, hestat ▸ builtEstat_ne_busy c⟩
  by_cases hc : c.length ≤ 254
  · exact ⟨_, startEnc_of_fits _ hs hc, fun _ => rfl, fun hlong => by omega, hatomic⟩
  · exact ⟨_, startEnc_of_long _ hs (by omega), fun hfits => absurd hfits hc, fun _ => ⟨rfl, rfl⟩, hatomic⟩

end Sys2Proof.Machine
end

section
/-! A built frame as the parser meets it (spec/40_frame_builder.md R115). -/

namespace Sys2Proof.Machine

/-- A start sequence and a length checksum that holds bring the candidate to its direction byte; any but `D5` is rejected
there (R131 to R134). -/
theorem candidate_rejects_tfi {len lcs tfi : Byte} {n : Nat} (hlcs : add8 len lcs = 0x00) (htfi : tfi ≠ Config.tfiD2H)
    (tail : List Byte) (hn : 6 ≤ n) :
    candidate (0x00 :: 0x00 :: 0xFF :: len :: lcs :: tfi :: tail) n 0 = .reject .tfi := by
  have hn2 : ¬ n ≤ 2 := by omega
  have hn4 : ¬ n ≤ 4 := by omega
  have hn5 : ¬ n ≤ 5 := by omega
  simp [candidate, afterStart, afterLcs, readByte, memRead, lcsHolds, Config.preamble, Config.start0, Config.start1,
    hn2, hn4, hn5, hlcs, htfi]

/-- R115: the direction byte of a built frame is `D4`, so `DEC` rejects the frame where it begins, whatever follows it. -/
theorem candidate_buildFrame (c r : List Byte) :
    candidate (buildFrame c ++ r) (buildFrame c ++ r).length 0 = .reject .tfi := by
  have hlen : 6 ≤ (buildFrame c ++ r).length := by
    rw [List.length_append, buildFrame_length]
    omega
  exact candidate_rejects_tfi (add8_neg8_self _) (by decide) _ hlen

/-- A response frame through its `DCS` (R177), as the bytes of a command. -/
def responseAsCommand : List Byte := [0x00, 0x00, 0xFF, 0x05, 0xFB, 0xD5, 0x03, 0x32, 0x01, 0x06, 0xEF]

/-- The scan goes on inside the payload of a rejected frame (R84, R115). -/
theorem parseFrame_responseAsCommand :
    parseFrame (buildFrame responseAsCommand) = .found { ic := 0x32, ver := 0x01, rev := 0x06 } := by
  decide

/-- Settles O30: the rejection at the start holds of every frame; the other two clauses are scans of single buffers. -/
theorem builtFramesAreRejectedAtTheirStart : Obligations.BuiltFramesAreRejectedAtTheirStart :=
  ⟨fun c r _ => candidate_buildFrame c r,
    ⟨responseAsCommand, _, by decide, parseFrame_responseAsCommand⟩, by decide⟩

end Sys2Proof.Machine
end

section
/-! The candidate at one offset: the start sequence (spec/41_frame_parser.md R131), the five steps in the source's order
(R132 to R138), and what an accepted candidate consists of. -/

namespace Sys2Proof.Machine

section
variable {b : Buffer} {i n : Nat}

theorem readByte_of_some {v : Byte} (h : b[i]? = some v) (k : Byte → Verdict) : readByte b i k = k v := by
  simp [readByte, memRead, h]

/-- Reading inside a slice is reading the buffer, as far as the slice goes. -/
theorem getElem?_slice (s : List Byte) (a p k : Nat) : (slice s a (a + p))[k]? = if k < p then s[a + k]? else none := by
  simp [slice, List.getElem?_take]

/-- `00 00 FF` stands at offset `i` (R131). -/
structure StartsAt (b : Buffer) (i : Nat) : Prop where
  preamble : b[i]? = some 0x00
  start0 : b[i + 1]? = some 0x00
  start1 : b[i + 2]? = some 0xFF

theorem StartsAt.lt_length (h : StartsAt b i) : i + 2 < b.length :=
  (List.getElem?_eq_some_iff.mp h.start1).1

/-- A start sequence hands the candidate over to step 1. -/
theorem candidate_of_startsAt (h : StartsAt b i) : candidate b b.length i = afterStart b b.length i := by
  have hlen := h.lt_length
  rw [candidate, if_neg (by omega), readByte_of_some h.preamble, readByte_of_some h.start0, readByte_of_some h.start1,
    if_neg (by decide)]

theorem candidate_of_not_startsAt (h : ¬ StartsAt b i) : candidate b b.length i = .reject .noStart := by
  unfold candidate
  split
  · rfl
  · rw [readByte_lt (by omega), readByte_lt (by omega), readByte_lt (by omega)]
    refine if_pos (Classical.by_contradiction fun hbytes => h ?_)
    simp only [not_or, not_not] at hbytes
    obtain ⟨h0, h1, h2⟩ := hbytes
    exact ⟨List.getElem?_eq_some_iff.mpr ⟨_, h0⟩, List.getElem?_eq_some_iff.mpr ⟨_, h1⟩,
      List.getElem?_eq_some_iff.mpr ⟨_, h2⟩⟩

/-- A read answers a verdict of its continuation, or `unread`. -/
theorem readByte_eq_iff {v : Verdict} (hv : v ≠ .unread) (k : Byte → Verdict) :
    readByte b i k = v ↔ ∃ x, b[i]? = some x ∧ k x = v := by
  unfold readByte memRead
  cases b[i]? with
  | none => simp [hv.symm]
  | some x => simp

theorem readByte_ne_noStart {k : Byte → Verdict} (hk : ∀ x, k x ≠ .reject .noStart) :
    readByte b i k ≠ .reject .noStart := by
  intro h
  obtain ⟨x, -, hx⟩ := (readByte_eq_iff (by simp) k).mp h
  exact hk x hx

theorem step5_ne_noStart (plen : Nat) (fd : List Byte) : step5 plen fd ≠ .reject .noStart := by
  unfold step5
  split
  · simp
  · refine readByte_ne_noStart fun tag => ?_
    split
    · simp
    · split
      · simp
      · exact readByte_ne_noStart fun _ => readByte_ne_noStart fun _ => readByte_ne_noStart fun _ => by simp

theorem afterLcs_ne_noStart (len : Byte) : afterLcs b n i len ≠ .reject .noStart := by
  unfold afterLcs
  split
  · simp
  · refine readByte_ne_noStart fun tfi => ?_
    split
    · simp
    · split
      · simp
      · exact step5_ne_noStart _ _

/-- Steps 1 to 5 never answer that the start sequence is missing. -/
theorem afterStart_ne_noStart : afterStart b n i ≠ .reject .noStart := by
  unfold afterStart
  split
  · simp
  · refine readByte_ne_noStart fun len => readByte_ne_noStart fun lcs => ?_
    split
    · simp
    · exact afterLcs_ne_noStart len

/-- R131: the candidates are the offsets of the start sequence. -/
theorem candidate_ne_noStart_iff : candidate b b.length i ≠ .reject .noStart ↔ StartsAt b i := by
  constructor
  · exact fun h => Classical.by_contradiction fun hstart => h (candidate_of_not_startsAt hstart)
  · intro h
    rw [candidate_of_startsAt h]
    exact afterStart_ne_noStart

/-- Settles O19: the candidates are the start sequences; in `00 00 00 FF` there is none at the first zero and one at the
second. -/
theorem candidateOffsetsAreStartSequences : Obligations.CandidateOffsetsAreStartSequences := by
  refine ⟨fun b i => ?_, fun r => ?_⟩
  · rw [candidate_ne_noStart_iff]
    exact ⟨fun h => ⟨h.lt_length, h.preamble, h.start0, h.start1⟩, fun ⟨_, h0, h1, h2⟩ => ⟨h0, h1, h2⟩⟩
  · have hlen : 4 + r.length = ([0x00, 0x00, 0x00, 0xFF] ++ r).length := by
      rw [List.length_append]
      rfl
    rw [hlen]
    constructor
    · exact candidate_of_not_startsAt fun h => absurd h.start1 (by simp)
    · exact candidate_ne_noStart_iff.mpr ⟨rfl, rfl, rfl⟩

/-! Steps 1 to 5, each decided by the bytes it reads. -/

/-- Step 1 (R132). -/
theorem afterStart_of_header {len lcs : Byte} (hlen : b[i + 3]? = some len) (hlcs : b[i + 4]? = some lcs) :
    afterStart b b.length i = if add8 len lcs = 0x00 then afterLcs b b.length i len else .reject .lcs := by
  have hlt := (List.getElem?_eq_some_iff.mp hlcs).1
  rw [afterStart, if_neg (by omega), readByte_of_some hlen, readByte_of_some hlcs]
  by_cases h : add8 len lcs = 0x00 <;> simp [lcsHolds, h]

/-- The payload bytes that `LEN = l` announces at offset `i` (R135): `LEN` counts the `TFI` too. -/
def payload (b : Buffer) (i l : Nat) : List Byte := slice b (i + 6) (i + 6 + (l - 1))

theorem payload_length {l : Nat} (hwhole : i + 6 + l ≤ b.length) : (payload b i l).length = l - 1 := by
  rw [payload, slice_length]
  omega

theorem payload_getElem? {l k : Nat} (hk : k < l - 1) : (payload b i l)[k]? = b[i + 6 + k]? := by
  rw [payload, getElem?_slice, if_pos hk]

/-- Steps 2 and 3 (R133, R134). -/
theorem afterLcs_of_tfi {tfi : Byte} (len : Byte) (htfi : b[i + 5]? = some tfi) :
    afterLcs b b.length i len =
      if tfi ≠ 0xD5 then .reject .tfi
      else if b.length < i + 6 + len.toNat then .reject .trunc
      else step5 (len.toNat - 1) (payload b i len.toNat) := by
  have hlt := (List.getElem?_eq_some_iff.mp htfi).1
  rw [afterLcs, if_neg (by omega), readByte_of_some htfi]
  rfl

section
variable {plen : Nat} {fd : List Byte}

/-- Step 5 on a payload without a tag, or with another one (R136). -/
theorem step5_of_other_tag (hfd : fd.length = plen) (htag : fd[0]? ≠ some 0x03) : step5 plen fd = .reject .tag := by
  unfold step5
  split
  · rfl
  · rw [readByte_lt (by omega)]
    exact if_pos fun h => htag (List.getElem?_eq_some_iff.mpr ⟨_, h⟩)

/-- Step 5 on a payload with the tag and fewer than four bytes (R137). -/
theorem step5_of_short (htag : fd[0]? = some 0x03) (hpos : 1 ≤ plen) (hplen : plen < 4) :
    step5 plen fd = .reject .short := by
  rw [step5, if_neg (by omega), readByte_of_some htag, if_neg (by decide)]
  exact if_pos hplen

end

/-- A verdict behind a failed test is no acceptance. -/
theorem ite_reject_eq_accept {p : Prop} [Decidable p] {why : RejectReason} {v : Verdict} {fw : Firmware} :
    (if p then .reject why else v) = .accept fw ↔ ¬ p ∧ v = .accept fw := by
  split <;> simp_all

theorem readByte_eq_accept {fw : Firmware} {k : Byte → Verdict} :
    readByte b i k = .accept fw ↔ ∃ x, b[i]? = some x ∧ k x = .accept fw :=
  readByte_eq_iff (by simp) k

/-- Steps 4 and 5 accept a payload that begins with the tag and the three fields (R135 to R138). -/
theorem step5_eq_accept {plen : Nat} {fd : List Byte} {fw : Firmware} :
    step5 plen fd = .accept fw ↔
      4 ≤ plen ∧ fd[0]? = some 0x03 ∧ fd[1]? = some fw.ic ∧ fd[2]? = some fw.ver ∧ fd[3]? = some fw.rev := by
  have hmin : Config.fwPlenMin = 4 := rfl
  simp only [step5, ite_reject_eq_accept, readByte_eq_accept, not_ne_iff]
  constructor
  · rintro ⟨-, _, htag, rfl, hplen, ic, hic, ver, hver, rev, hrev, ⟨⟩⟩
    exact ⟨by omega, htag, hic, hver, hrev⟩
  · rintro ⟨hplen, htag, hic, hver, hrev⟩
    exact ⟨by omega, _, htag, rfl, by omega, _, hic, _, hver, _, hrev, rfl⟩

/-- What an accepted candidate at `i` of a buffer of `n` bytes consists of (R138). -/
structure AcceptedAt (b : Buffer) (n i : Nat) (len lcs : Byte) (fw : Firmware) : Prop where
  starts : StartsAt b i
  read_len : b[i + 3]? = some len
  read_lcs : b[i + 4]? = some lcs
  lcs_holds : add8 len lcs = 0x00
  tfi : b[i + 5]? = some 0xD5
  whole : i + 6 + len.toNat ≤ n
  five_le_len : 5 ≤ len.toNat
  tag : b[i + 6]? = some 0x03
  ic : b[i + 7]? = some fw.ic
  ver : b[i + 8]? = some fw.ver
  rev : b[i + 9]? = some fw.rev

/-- R138: the tests passed on the way to an acceptance, and the bytes they read. -/
theorem candidate_eq_accept {fw : Firmware} :
    candidate b n i = .accept fw ↔ ∃ len lcs, AcceptedAt b n i len lcs fw := by
  simp only [candidate, afterStart, afterLcs, ite_reject_eq_accept, readByte_eq_accept, step5_eq_accept, getElem?_slice,
    lcsHolds, not_or, decide_eq_false_iff_not, not_not]
  constructor
  · rintro ⟨-, b0, h0, b1, h1, b2, h2, ⟨rfl, rfl, rfl⟩, -, len, hlen, lcs, hlcs, hholds, -, tfi, htfi, rfl, hwhole,
      hplen, htag, hic, hver, hrev⟩
    rw [if_pos (by omega)] at htag hic hver hrev
    exact ⟨len, lcs, ⟨h0, h1, h2⟩, hlen, hlcs, hholds, htfi, by omega, by omega, htag, hic, hver, hrev⟩
  · rintro ⟨len, lcs, ⟨h0, h1, h2⟩, hlen, hlcs, hholds, htfi, hwhole, hfive, htag, hic, hver, hrev⟩
    refine ⟨by omega, _, h0, _, h1, _, h2, ⟨rfl, rfl, rfl⟩, by omega, _, hlen, _, hlcs, hholds, by omega, _, htfi, rfl,
      by omega, by omega, ?_⟩
    rw [if_pos (by omega), if_pos (by omega), if_pos (by omega), if_pos (by omega)]
    exact ⟨htag, hic, hver, hrev⟩

/-- Step 5 where the payload is all there, by the bytes of the buffer (R136, R137). -/
theorem step5_payload {l : Nat} (hwhole : i + 6 + l ≤ b.length) :
    (l ≤ 1 → step5 (l - 1) (payload b i l) = .reject .tag) ∧
    (2 ≤ l → b[i + 6]? ≠ some 0x03 → step5 (l - 1) (payload b i l) = .reject .tag) ∧
    (2 ≤ l → l ≤ 4 → b[i + 6]? = some 0x03 → step5 (l - 1) (payload b i l) = .reject .short) ∧
    (5 ≤ l → b[i + 6]? = some 0x03 →
      ∃ fw, step5 (l - 1) (payload b i l) = .accept fw ∧
        b[i + 7]? = some fw.ic ∧ b[i + 8]? = some fw.ver ∧ b[i + 9]? = some fw.rev) := by
  have hlen := payload_length hwhole
  refine ⟨fun hl => ?_, fun hl htag => ?_, fun hl hl4 htag => ?_, fun hl htag => ?_⟩
  · refine step5_of_other_tag hlen ?_
    rw [List.getElem?_eq_none (by omega)]
    simp
  · exact step5_of_other_tag hlen (by rwa [payload_getElem? (by omega)])
  · exact step5_of_short (by rwa [payload_getElem? (by omega)]) (by omega) (by omega)
  · have h7 : b[i + 7]? = some _ := List.getElem?_eq_getElem (by omega)
    have h8 : b[i + 8]? = some _ := List.getElem?_eq_getElem (by omega)
    have h9 : b[i + 9]? = some _ := List.getElem?_eq_getElem (by omega)
    refine ⟨⟨_, _, _⟩, step5_eq_accept.mpr ?_, h7, h8, h9⟩
    rw [payload_getElem? (by omega), payload_getElem? (by omega), payload_getElem? (by omega), payload_getElem? (by omega)]
    exact ⟨by omega, htag, h7, h8, h9⟩

end

/-- Settles O21: down the five steps, each clause is one branch of the step's test. -/
theorem candidateStepsGiveReasons : Obligations.CandidateStepsGiveReasons := by
  refine ⟨fun b i h => candidate_of_not_startsAt fun hs => ?_, fun b i h0 h1 h2 => ?_⟩
  · rcases h with hshort | h0 | h1 | h2
    · exact Nat.not_lt.mpr hshort hs.lt_length
    · exact h0 hs.preamble
    · exact h1 hs.start0
    · exact h2 hs.start1
  · rw [candidate_of_startsAt ⟨h0, h1, h2⟩]
    refine ⟨fun hshort => if_pos hshort, fun len lcs hlen hlcs => ?_⟩
    rw [afterStart_of_header hlen hlcs]
    refine ⟨fun hlcs => if_neg hlcs, fun hlcs => ?_⟩
    rw [if_pos hlcs]
    refine ⟨fun hshort => if_pos hshort, fun tfi htfi => ?_⟩
    rw [afterLcs_of_tfi len htfi]
    refine ⟨fun htfi => if_pos htfi, ?_⟩
    rintro rfl
    rw [if_neg (not_not.mpr rfl)]
    refine ⟨fun hshort => if_pos hshort, fun hwhole => ?_⟩
    rw [if_neg (Nat.not_lt.mpr hwhole)]
    exact step5_payload hwhole

end Sys2Proof.Machine
end

section
/-! The scan over the offsets and what `PARSE` reports of it (spec/41_frame_parser.md R139 to R141, R148). -/

namespace Sys2Proof.Machine

variable {b : Buffer} {s : State}

/-- The scan passes over offsets that are rejected. -/
theorem scanFrom_skip {i m : Nat} (fuel : Nat) (h : ∀ j, i ≤ j → j < i + m → rejectsAt b j) :
    scanFrom b (m + fuel) i = scanFrom b fuel (i + m) := by
  induction m generalizing i with
  | zero => rw [Nat.zero_add, Nat.add_zero]
  | succ m ih =>
    rw [Nat.add_right_comm, scanFrom_reject (h i (Nat.le_refl i) (by omega)),
      ih fun j hij hj => h j (by omega) (by omega), Nat.add_assoc, Nat.add_comm 1 m]

/-- The scan ends at the first accepting offset (R139). -/
theorem scanFrom_first {i : Nat} {fw : Firmware} (hi : i < b.length) (hacc : candidate b b.length i = .accept fw)
    (hrej : ∀ j, j < i → rejectsAt b j) : scanFrom b b.length 0 = (i, .found fw) := by
  obtain ⟨fuel, hfuel⟩ : ∃ fuel, b.length = i + (fuel + 1) := ⟨b.length - i - 1, by omega⟩
  rw [hfuel, scanFrom_skip _ fun j _ hj => hrej j (by omega), Nat.zero_add, scanFrom_accept hacc]

/-- Without an accepting offset the scan ends behind the last one (R139). -/
theorem scanFrom_none (hrej : ∀ j, j < b.length → rejectsAt b j) : scanFrom b b.length 0 = (b.length, .notFound) := by
  have h := scanFrom_skip (i := 0) (m := b.length) 0 fun j _ hj => hrej j (by omega)
  rwa [Nat.zero_add] at h

theorem parseFrame_eq_found {i : Nat} {fw : Firmware} (hi : i < b.length) (hacc : candidate b b.length i = .accept fw)
    (hrej : ∀ j, j < i → rejectsAt b j) : parseFrame b = .found fw := by
  rw [parseFrame, scanFrom_first hi hacc hrej]

theorem parseFrame_eq_notFound (hrej : ∀ j, j < b.length → rejectsAt b j) : parseFrame b = .notFound := by
  rw [parseFrame, scanFrom_none hrej]

theorem Dec.parsed_of_found {fw : Firmware} (h : parseFrame b = .found fw) :
    Dec.parsed b = (Dec.scanning b (scanFrom b b.length 0).1).accept fw := by
  simp only [Dec.parsed, h]
  rfl

theorem Dec.parsed_of_notFound (h : parseFrame b = .notFound) :
    Dec.parsed b = (Dec.scanning b (scanFrom b b.length 0).1).exhaust := by
  simp only [Dec.parsed, h]
  rfl

/-- `PARSE` keeps the snapshot of its buffer, found or not (R130, R148). -/
theorem Dec.parsed_snapshot (b : List Byte) : (Dec.parsed b).rxb = some b ∧ (Dec.parsed b).rxn = some b.length := by
  cases h : parseFrame b with
  | found fw => rw [Dec.parsed_of_found h]; exact ⟨rfl, rfl⟩
  | notFound => rw [Dec.parsed_of_notFound h]; exact ⟨rfl, rfl⟩

/-- A `PARSE` of a buffer within `RX_MAX` is taken and leaves the result of its scan. -/
theorem exec_parse_of_fits (hs : s.dec.dstat ≠ .busy) (hfits : rxFits s.params b.length = true) :
    exec (.parse b) s = .next ((s.withDec (Dec.parsed b)).withReply .accepted) := by
  rcases startDec_cases b (Dec.parsed b) s with ⟨hb, -⟩ | ⟨-, hlong, -⟩ | ⟨-, -, h⟩
  · exact absurd hb hs
  · exact absurd hfits (by simp [hlong])
  · exact h

/-- Settles O22: the scan ends at the first accepting offset, or behind the last one. -/
theorem parseReportsFirstAcceptance : Obligations.ParseReportsFirstAcceptance := by
  intro b s hs hfits
  obtain ⟨hrxb, hrxn⟩ := Dec.parsed_snapshot b
  refine ⟨_, exec_parse_of_fits hs hfits, hrxb, hrxn, fun i fw hi hacc hrej => ?_, fun hrej => ?_⟩
  · rw [State.withReply_dec, State.withDec_dec, Dec.parsed_of_found (parseFrame_eq_found hi hacc hrej)]
    exact ⟨rfl, rfl, rfl, rfl⟩
  · rw [State.withReply_dec, State.withDec_dec, Dec.parsed_of_notFound (parseFrame_eq_notFound hrej)]
    exact ⟨rfl, rfl, rfl, rfl⟩

/-- Settles O23: without a bound every `PARSE` is taken, and `ParseFrame` has two results. -/
theorem parseIsTotal : Obligations.ParseIsTotal := by
  intro b s hs hmax
  refine ⟨_, exec_parse_of_fits hs (by rw [rxFits, hmax]), ?_⟩
  rw [State.withReply_dec, State.withDec_dec]
  cases h : parseFrame b with
  | found fw =>
    rw [Dec.parsed_of_found h]
    exact .inl ⟨rfl, fw, rfl, rfl, rfl, rfl⟩
  | notFound =>
    rw [Dec.parsed_of_notFound h]
    exact .inr ⟨rfl, rfl, rfl, rfl, rfl⟩

/-- Settles O24: a start on `DEC` that is taken leaves the result of the scan, a function of the buffer. -/
theorem parseIsPure : Obligations.ParseIsPure := by
  refine ⟨fun b s t h => ?_, fun b s s' hs hs' hfits hfits' =>
    ⟨_, _, exec_parse_of_fits hs hfits, exec_parse_of_fits hs' hfits', rfl⟩⟩
  change startDec b (Dec.parsed b) s = .next t at h
  rcases startDec_cases b (Dec.parsed b) s with ⟨hb, hrun⟩ | ⟨-, -, hrun⟩ | ⟨-, -, hrun⟩
  all_goals rw [hrun] at h; cases h
  · exact ⟨rfl, rfl, rfl, fun hs => absurd hb hs⟩
  · exact ⟨rfl, rfl, rfl, fun _ => (Dec.parsed_snapshot b).1⟩

end Sys2Proof.Machine
end

section
/-! The least buffer that is accepted (spec/41_frame_parser.md R145), what a candidate depends on (R146), and a frame inside
a rejected one (R149). -/

namespace Sys2Proof.Machine

theorem slice_cons {s : List Byte} {a c : Nat} {v : Byte} (h : s[a]? = some v) (hac : a < c) :
    slice s a c = v :: slice s (a + 1) c := by
  obtain ⟨hlt, rfl⟩ := List.getElem?_eq_some_iff.mp h
  rw [slice, List.drop_eq_getElem_cons hlt, show c - a = (c - (a + 1)) + 1 by omega, List.take_succ_cons, slice]

theorem slice_self (s : List Byte) (a : Nat) : slice s a a = [] := by
  simp [slice]

section
variable {b : Buffer} {n i : Nat} {len lcs : Byte} {fw : Firmware}

/-- The header of an accepted candidate. -/
theorem AcceptedAt.slice_header {c : Nat} (h : AcceptedAt b n i len lcs fw) (hc : i + 6 ≤ c) :
    slice b i c = [0x00, 0x00, 0xFF, len, lcs, 0xD5] ++ slice b (i + 6) c := by
  rw [slice_cons h.starts.preamble (by omega), slice_cons h.starts.start0 (by omega), slice_cons h.starts.start1 (by omega),
    slice_cons h.read_len (by omega), slice_cons h.read_lcs (by omega), slice_cons h.tfi (by omega)]
  rfl

/-- Its payload as far as step 5 reads it. -/
theorem AcceptedAt.slice_payload {c : Nat} (h : AcceptedAt b n i len lcs fw) (hc : i + 10 ≤ c) :
    slice b (i + 6) c = [0x03, fw.ic, fw.ver, fw.rev] ++ slice b (i + 10) c := by
  rw [slice_cons h.tag (by omega), slice_cons h.ic (by omega), slice_cons h.ver (by omega), slice_cons h.rev (by omega)]
  rfl

theorem AcceptedAt.eleven_le (h : AcceptedAt b n i len lcs fw) : i + 11 ≤ n := by
  have hwhole := h.whole
  have hfive := h.five_le_len
  omega

end

/-- R145 (c): an offset with fewer than eleven bytes to the end is rejected. -/
theorem rejectsAt_of_near_end {b : Buffer} {j : Nat} (h : b.length < j + 11) : rejectsAt b j := by
  rcases candidate_cases b j with ⟨fw, hacc⟩ | hrej
  · obtain ⟨len, lcs, hat⟩ := candidate_eq_accept.mp hacc
    exact absurd hat.eleven_le (Nat.not_le.mpr h)
  · exact hrej

/-- The eleven bytes of the least response frame, the `DCS` being any byte (R145 (b)). -/
def leastResponse (fw : Firmware) (x : Byte) : List Byte :=
  [0x00, 0x00, 0xFF, 0x05, 0xFB, 0xD5, 0x03, fw.ic, fw.ver, fw.rev, x]

theorem parseFrame_leastResponse (fw : Firmware) (x : Byte) : parseFrame (leastResponse fw x) = .found fw := by
  have hat : AcceptedAt (leastResponse fw x) 11 0 0x05 0xFB fw :=
    ⟨⟨rfl, rfl, rfl⟩, rfl, rfl, by decide, rfl, by decide, by decide, rfl, rfl, rfl, rfl⟩
  exact parseFrame_eq_found (i := 0) (Nat.succ_pos 10) (candidate_eq_accept.mpr ⟨_, _, hat⟩) fun j hj =>
    absurd hj (Nat.not_lt_zero j)

/-- In a frame that fills eleven bytes `LEN` is `05`, and the byte that completes it to zero is `FB`. -/
theorem AcceptedAt.eq_leastResponse {b : Buffer} {len lcs : Byte} {fw : Firmware} (hb : b.length = 11)
    (h : AcceptedAt b b.length 0 len lcs fw) : ∃ x, b = leastResponse fw x := by
  have hwhole := h.whole
  have hfive := h.five_le_len
  obtain rfl : len = 0x05 := BitVec.eq_of_toNat_eq (Nat.le_antisymm (by change len.toNat ≤ 5; omega) hfive)
  obtain rfl : lcs = 0xFB := by
    have hsum := h.lcs_holds
    rw [add8_eq] at hsum
    bv_omega
  have h10 : b[10]? = some (b[10]'(by omega)) := List.getElem?_eq_getElem (by omega)
  exact ⟨_, calc
    b = slice b 0 11 := (List.take_of_length_le (Nat.le_of_eq hb)).symm
    _ = leastResponse fw _ := by
      rw [h.slice_header (by omega), h.slice_payload (by omega), slice_cons h10 (by omega), slice_self]
      rfl⟩

/-- R145 (b): in eleven bytes only offset 0 can accept. -/
theorem parseFrame_eq_found_of_eleven {b : Buffer} (hb : b.length = 11) (fw : Firmware) :
    parseFrame b = .found fw ↔ ∃ x, b = leastResponse fw x := by
  constructor
  · intro hfound
    rcases candidate_cases b 0 with ⟨fw', hacc⟩ | hrej
    · have hfound' := parseFrame_eq_found (by omega) hacc fun j hj => absurd hj (Nat.not_lt_zero j)
      obtain rfl : fw = fw' := ParseResult.found.inj (hfound.symm.trans hfound')
      obtain ⟨len, lcs, hat⟩ := candidate_eq_accept.mp hacc
      exact hat.eq_leastResponse hb
    · have hnone : parseFrame b = .notFound := parseFrame_eq_notFound fun j _ => by
        cases j with
        | zero => exact hrej
        | succ j => exact rejectsAt_of_near_end (by omega)
      cases hfound.symm.trans hnone
  · rintro ⟨x, rfl⟩
    exact parseFrame_leastResponse fw x

/-- Settles O27: an accepted candidate has eleven bytes to the end, so a buffer of eleven accepts at offset 0 only. -/
theorem leastAcceptedBufferIsElevenBytes : Obligations.LeastAcceptedBufferIsElevenBytes :=
  ⟨fun _ hb => parseFrame_eq_notFound fun _ _ => rejectsAt_of_near_end (by omega),
    fun _ fw hb => parseFrame_eq_found_of_eleven hb fw, fun _ _ => rejectsAt_of_near_end⟩

/-! What a candidate depends on: each step reads the bytes behind the offset and compares with the distance to the end. -/

theorem step5_congr {plen : Nat} {fd fd' : List Byte} (h : ∀ k, k < 4 → fd[k]? = fd'[k]?) :
    step5 plen fd = step5 plen fd' := by
  simp only [step5, readByte, memRead, h 0 (by omega), h 1 (by omega), h 2 (by omega), h 3 (by omega)]

section
variable {b b' : Buffer} {n n' i i' : Nat}

/-- The same bytes stand at both offsets, as far as a candidate reads (R146). -/
def SameTen (b b' : Buffer) (i i' : Nat) : Prop := ∀ k, k < 10 → b[i + k]? = b'[i' + k]?

theorem SameTen.readByte (h : SameTen b b' i i') {k : Nat} (hk : k < 10) :
    readByte b (i + k) = readByte b' (i' + k) := by
  funext f
  rw [Machine.readByte, Machine.readByte, memRead, memRead, h k hk]

theorem SameTen.step5 (h : SameTen b b' i i') (plen : Nat) :
    step5 plen (slice b (i + 6) (i + 6 + plen)) = step5 plen (slice b' (i' + 6) (i' + 6 + plen)) := by
  refine step5_congr fun k hk => ?_
  rw [getElem?_slice, getElem?_slice, Nat.add_assoc, Nat.add_assoc, h (6 + k) (by omega)]

theorem SameTen.afterLcs (h : SameTen b b' i i') (hn : n - i = n' - i') (len : Byte) :
    afterLcs b n i len = afterLcs b' n' i' len := by
  have hshort : n ≤ i + 5 ↔ n' ≤ i' + 5 := by omega
  have htrunc : n < i + 6 + len.toNat ↔ n' < i' + 6 + len.toNat := by omega
  simp only [Machine.afterLcs, hshort, htrunc, h.readByte (k := 5) (by omega), h.step5]

theorem SameTen.afterStart (h : SameTen b b' i i') (hn : n - i = n' - i') : afterStart b n i = afterStart b' n' i' := by
  have hshort : n ≤ i + 4 ↔ n' ≤ i' + 4 := by omega
  simp only [Machine.afterStart, hshort, h.readByte (k := 3) (by omega), h.readByte (k := 4) (by omega), h.afterLcs hn]

/-- R146: a candidate depends on the distance to the end and on ten bytes. -/
theorem SameTen.candidate (h : SameTen b b' i i') (hn : n - i = n' - i') : candidate b n i = candidate b' n' i' := by
  have hshort : n ≤ i + 2 ↔ n' ≤ i' + 2 := by omega
  have h0 : Machine.readByte b i = Machine.readByte b' i' := h.readByte (k := 0) (by omega)
  simp only [Machine.candidate, hshort, h0, h.readByte (k := 1) (by omega), h.readByte (k := 2) (by omega), h.afterStart hn]

end

section
variable {g b : List Byte} {fw : Firmware}

/-- Leading bytes shift a candidate (R146). -/
theorem candidate_append_left (g b : List Byte) (i : Nat) :
    candidate (g ++ b) (g.length + b.length) (g.length + i) = candidate b b.length i := by
  have hsame : SameTen (g ++ b) b (g.length + i) i := fun k _ => by
    rw [Nat.add_assoc, List.getElem?_append_right (Nat.le_add_right ..), Nat.add_sub_cancel_left]
  exact hsame.candidate (by omega)

/-- A frame behind rejected noise is found (R146). -/
theorem parseFrame_append_of_noise (hacc : candidate b b.length 0 = .accept fw)
    (hrej : ∀ j, j < g.length → rejectsAt (g ++ b) j) : parseFrame (g ++ b) = .found fw := by
  obtain ⟨len, lcs, hat⟩ := candidate_eq_accept.mp hacc
  have heleven := hat.eleven_le
  rw [← candidate_append_left g b 0, ← List.length_append, Nat.add_zero] at hacc
  exact parseFrame_eq_found (by rw [List.length_append]; omega) hacc hrej

/-- Where no header of a response frame stands, the candidate is rejected (R146). -/
theorem rejectsAt_of_no_header {j : Nat} (h : ∀ len lcs : Byte, add8 len lcs = 0x00 →
    slice b j (j + 6) ≠ [0x00, 0x00, 0xFF, len, lcs, 0xD5]) : rejectsAt b j := by
  rcases candidate_cases b j with ⟨fw, hacc⟩ | hrej
  · obtain ⟨len, lcs, hat⟩ := candidate_eq_accept.mp hacc
    have hheader := hat.slice_header (Nat.le_refl (j + 6))
    rw [slice_self, List.append_nil] at hheader
    exact absurd hheader (h len lcs hat.lcs_holds)
  · exact hrej

end

/-- Settles O28: locality gives the shift, the shift gives the frame behind noise, and noise without a header is rejected. -/
theorem candidateIsLocalAndShifts : Obligations.CandidateIsLocalAndShifts :=
  ⟨fun _ _ _ _ _ _ hn hsame => SameTen.candidate hsame hn, candidate_append_left, fun _ _ _ => parseFrame_append_of_noise,
    fun _ _ _ hacc hnoise => parseFrame_append_of_noise hacc fun j hj => rejectsAt_of_no_header (hnoise j hj)⟩

/-- Settles O32: the example, computed offset by offset. -/
theorem nestedFrameIsFound : Obligations.NestedFrameIsFound := by
  refine ⟨by decide, fun j h1 h5 => ?_, by decide⟩
  interval_cases j <;> decide

end Sys2Proof.Machine
end

section
/-! The firmware request and its echo in front of captured bytes (spec/42_transaction.md R172, R178). -/

namespace Sys2Proof.Machine

/-- Settles O12: `GETFW` runs as `BUILD [02]`, whose frame is computed. -/
theorem getfwBuildsFirmwareRequest : Obligations.GetfwBuildsFirmwareRequest := fun _ hs =>
  have hbuild := exec_build_of_fits (c := [0x02]) hs (by decide)
  ⟨_, hbuild, hbuild, rfl, rfl⟩

/-- A scan behind leading bytes ends with the result of the scan without them (R139, R146). -/
theorem scanFrom_append_left (g b : List Byte) (fuel i : Nat) :
    (scanFrom (g ++ b) fuel (g.length + i)).2 = (scanFrom b fuel i).2 := by
  induction fuel generalizing i with
  | zero => rfl
  | succ fuel ih =>
    have hshift : candidate (g ++ b) (g ++ b).length (g.length + i) = candidate b b.length i := by
      rw [List.length_append, candidate_append_left]
    rcases candidate_cases b i with ⟨fw, hacc⟩ | ⟨why, hrej⟩
    · rw [scanFrom_accept (hshift.trans hacc), scanFrom_accept hacc]
    · rw [scanFrom_reject ⟨why, hshift.trans hrej⟩, scanFrom_reject ⟨why, hrej⟩, Nat.add_assoc, ih]

/-- Leading bytes at whose offsets nothing is accepted do not change the result, found or not (R139, R146). -/
theorem parseFrame_append_of_rejects {g b : List Byte} (h : ∀ j, j < g.length → rejectsAt (g ++ b) j) :
    parseFrame (g ++ b) = parseFrame b := by
  rw [parseFrame, parseFrame, List.length_append, scanFrom_skip _ fun j _ hj => h j (by omega), Nat.add_comm 0,
    scanFrom_append_left]

/-- What HOST reads after a `PARSE` depends on the result of the scan alone. -/
theorem Dec.parsed_results_congr {b b' : List Byte} (h : parseFrame b = parseFrame b') :
    (Dec.parsed b).dstat = (Dec.parsed b').dstat ∧ (Dec.parsed b).fwIc = (Dec.parsed b').fwIc ∧
      (Dec.parsed b).fwVer = (Dec.parsed b').fwVer ∧ (Dec.parsed b).fwRev = (Dec.parsed b').fwRev := by
  cases h' : parseFrame b' with
  | found fw => rw [Dec.parsed_of_found h', Dec.parsed_of_found (h.trans h')]; exact ⟨rfl, rfl, rfl, rfl⟩
  | notFound => rw [Dec.parsed_of_notFound h', Dec.parsed_of_notFound (h.trans h')]; exact ⟨rfl, rfl, rfl, rfl⟩

/-- A buffer no longer than one within `RX_MAX` is within it. -/
theorem rxFits_of_le {p : Params} {m n : Nat} (h : rxFits p m = true) (hnm : n ≤ m) : rxFits p n = true := by
  unfold rxFits at h ⊢
  split at h
  · rfl
  · exact decide_eq_true (hnm.trans (of_decide_eq_true h))

/-- Within the firmware request two zero bytes in a row stand at offset 0 only (R172, R178). -/
theorem firmwareRequest_not_two_zeros :
    ∀ j, j < 8 → 1 ≤ j → ¬ ((buildFrame [0x02])[j]? = some 0x00 ∧ (buildFrame [0x02])[j + 1]? = some 0x00) := by
  decide

/-- R178: behind offset 0 a start sequence would have to begin at the postamble of the request and go on with `00 FF`
behind it. -/
theorem not_startsAt_firmwareRequest_append {r : List Byte} {j : Nat} (hr : r.take 2 ≠ [0x00, 0xFF]) (hpos : 1 ≤ j)
    (hj : j ≤ 8) : ¬ StartsAt (buildFrame [0x02] ++ r) j := by
  intro h
  have hlen : (buildFrame [0x02]).length = 9 := rfl
  rcases hj.lt_or_eq with hlt | rfl
  · have h0 := h.preamble
    have h1 := h.start0
    rw [List.getElem?_append_left (by omega)] at h0 h1
    exact firmwareRequest_not_two_zeros j hlt hpos ⟨h0, h1⟩
  · have h0 : r[0]? = some 0x00 := h.start0
    have h1 : r[1]? = some 0xFF := h.start1
    have htake : slice r 0 2 = [0x00, 0xFF] := by
      rw [slice_cons h0 (by decide), slice_cons h1 (by decide), slice_self]
    exact hr htake

/-- R178: every offset of the echoed request is rejected, the first one at its direction byte (R115). -/
theorem rejectsAt_firmwareRequest_append {r : List Byte} (hr : r.take 2 ≠ [0x00, 0xFF]) :
    ∀ j, j < (buildFrame [0x02]).length → rejectsAt (buildFrame [0x02] ++ r) j := by
  intro j hj
  rw [buildFrame_length] at hj
  rcases j.eq_zero_or_pos with rfl | hpos
  · exact ⟨_, candidate_buildFrame [0x02] r⟩
  · exact ⟨_, candidate_of_not_startsAt (not_startsAt_firmwareRequest_append hr hpos (Nat.le_of_lt_succ hj))⟩

/-- Settles O31: the echo is the built request, all its offsets are rejected, and `PARSE` reports the rest of the scan. -/
theorem echoOfRequestIsTransparent : Obligations.EchoOfRequestIsTransparent := by
  intro r e s0 s1 s henc hgetfw htxf hdec hfits hr
  obtain ⟨t, hrun, -, hbytes, -⟩ := getfwBuildsFirmwareRequest s0 henc
  obtain rfl : t = s1 := Host.Outcome.next.inj (hrun.symm.trans hgetfw)
  obtain rfl : buildFrame [0x02] = e := Option.some.inj (hbytes.symm.trans htxf)
  have hfits' : rxFits s.params r.length = true := rxFits_of_le hfits (by simp)
  exact ⟨_, _, exec_parse_of_fits hdec hfits, exec_parse_of_fits hdec hfits',
    Dec.parsed_results_congr (parseFrame_append_of_rejects (rejectsAt_firmwareRequest_append hr))⟩

end Sys2Proof.Machine
end

section
/-! The checksums as the only complements, and the frame kinds as the bytes the decoder takes from the front of its input
(spec/30_encoding.md R70 to R79). -/

namespace Sys2Proof.Machine

/-- A byte completes another to zero exactly when it is its two's complement (R73, R76). -/
theorem add8_eq_zero_iff {a b : Byte} : add8 a b = 0x00 ↔ b = neg8 a := by
  constructor
  · intro h
    rw [add8_eq] at h
    rw [neg8_eq]
    bv_omega
  · rintro rfl
    exact add8_neg8_self a

theorem lcsHolds_iff {len lcs : Byte} : lcsHolds len lcs = true ↔ add8 len lcs = 0x00 := decide_eq_true_iff

/-- Settles O4: both checksums are the complement of the sum they complete. -/
theorem checksumsAreTheUniqueComplements : Obligations.ChecksumsAreTheUniqueComplements :=
  ⟨fun _ _ => add8_eq_zero_iff, fun _ _ => lcsHolds_iff, fun _ _ _ => add8_eq_zero_iff⟩

section
variable {bs body pd rest tail : List Byte} {len : Byte} {i : Instr}

/-- The bytes of a header from its `LEN` byte (R70). -/
def headerOf (tfi len : Byte) : List Byte := [0x00, 0x00, 0xFF, len, lcsOf len, tfi]

theorem cmdBytes_eq (pd : List Byte) :
    cmdBytes pd = headerOf 0xD4 (BitVec.ofNat 8 (pd.length + 1)) ++ (pd ++ [dcsOf 0xD4 pd, 0x00]) := rfl

theorem rspBytes_eq (body : List Byte) : rspBytes body = headerOf 0xD5 (BitVec.ofNat 8 body.length) ++ body := rfl

/-- A command header hands its tail over to the command frame's decoder. -/
theorem decode_cmdHeader (len : Byte) (tail : List Byte) : decode (headerOf 0xD4 len ++ tail) = decodeCmd len tail := by
  have hlcs : lcsHolds len (lcsOf len) = true := lcsHolds_iff.mpr (add8_neg8_self len)
  simp [headerOf, decode, hlcs, Config.preamble, Config.start0, Config.start1, Config.tfiH2D]

/-- A response header hands its tail over to the response frame's decoder. -/
theorem decode_rspHeader (len : Byte) (tail : List Byte) : decode (headerOf 0xD5 len ++ tail) = decodeRsp len tail := by
  have hlcs : lcsHolds len (lcsOf len) = true := lcsHolds_iff.mpr (add8_neg8_self len)
  simp [headerOf, decode, hlcs, Config.preamble, Config.start0, Config.start1, Config.tfiH2D, Config.tfiD2H]

/-- Bytes that decode begin with a header of one of the two directions (R71 to R74). -/
theorem header_of_decode (h : decode bs = .ok i rest) :
    ∃ len tail, (bs = headerOf 0xD4 len ++ tail ∧ decodeCmd len tail = .ok i rest) ∨
      (bs = headerOf 0xD5 len ++ tail ∧ decodeRsp len tail = .ok i rest) := by
  unfold decode at h
  split at h
  case h_2 => cases h
  case h_1 p s0 s1 len lcs tfi tail =>
    split at h
    · cases h
    next hstart =>
    split at h
    · cases h
    next hlcs =>
    simp only [not_or, not_not] at hstart
    obtain ⟨rfl, rfl, rfl⟩ := hstart
    obtain rfl : lcs = lcsOf len := add8_eq_zero_iff.mp (lcsHolds_iff.mp (Bool.eq_true_of_not_eq_false hlcs))
    refine ⟨len, tail, ?_⟩
    split at h
    · next htfi => subst htfi; exact .inl ⟨rfl, h⟩
    · split at h
      · next htfi => subst htfi; exact .inr ⟨rfl, h⟩
      · cases h

/-- What the command frame's decoder takes: `LEN - 1` payload bytes, their checksum and the postamble (R79). -/
theorem decodeCmd_eq_ok : decodeCmd len tail = .ok i rest ↔
    ∃ pd, len.toNat = pd.length + 1 ∧ i = cmdKind pd ∧ tail = pd ++ [dcsOf 0xD4 pd, 0x00] ++ rest := by
  constructor
  · intro h
    unfold decodeCmd at h
    split at h
    · cases h
    next hzero =>
    dsimp only at h
    split at h
    case h_2 => cases h
    case h_1 dcs post more hdrop =>
      split at h
      · cases h
      next hdcs =>
      split at h
      · cases h
      next hpost =>
      rw [not_not] at hdcs hpost
      subst hdcs hpost
      cases h
      have hlt : len.toNat - 1 < tail.length := by
        have := congrArg List.length hdrop
        simp at this
        omega
      have hpos : len.toNat ≠ 0 := fun h0 => hzero (BitVec.eq_of_toNat_eq h0)
      refine ⟨tail.take (len.toNat - 1), by rw [List.length_take]; omega, rfl, ?_⟩
      calc
        tail = tail.take (len.toNat - 1) ++ tail.drop (len.toNat - 1) := (List.take_append_drop _ _).symm
        _ = _ := by rw [hdrop, List.append_assoc]; rfl
  · rintro ⟨pd, hlen, rfl, rfl⟩
    have hzero : len ≠ 0x00 := by
      rintro rfl
      cases hlen
    rw [decodeCmd, if_neg hzero]
    simp [hlen, Config.tfiH2D, Config.postamble]

/-- What the response frame's decoder takes: the `LEN` bytes after the `TFI` (R79, R80). -/
theorem decodeRsp_eq_ok : decodeRsp len tail = .ok i rest ↔
    ∃ body, len.toNat = body.length ∧ i = rspKind body ∧ tail = body ++ rest := by
  unfold decodeRsp
  constructor
  · intro h
    split at h
    · cases h
    · cases h
      exact ⟨tail.take len.toNat, by rw [List.length_take]; omega, rfl, (List.take_append_drop _ _).symm⟩
  · rintro ⟨body, hlen, rfl, rfl⟩
    simp [hlen]

/-- A `LEN` byte is given back by its number. -/
theorem ofNat_of_toNat_eq {n : Nat} (h : len.toNat = n) : BitVec.ofNat 8 n = len := by
  rw [← h, BitVec.ofNat_toNat, BitVec.setWidth_eq]

/-- The decoder takes exactly the frames of R79: a command frame whole, a response frame through its `DCS`. -/
theorem decode_eq_ok : decode bs = .ok i rest ↔
    (∃ pd : List Byte, pd.length ≤ 254 ∧ i = cmdKind pd ∧ bs = cmdBytes pd ++ rest) ∨
    (∃ body : List Byte, body.length ≤ 255 ∧ i = rspKind body ∧ bs = rspBytes body ++ rest) := by
  constructor
  · intro h
    obtain ⟨len, tail, ⟨rfl, htail⟩ | ⟨rfl, htail⟩⟩ := header_of_decode h
    · obtain ⟨pd, hlen, rfl, rfl⟩ := decodeCmd_eq_ok.mp htail
      have hlt := len.isLt
      exact .inl ⟨pd, by omega, rfl, by simp only [cmdBytes_eq, ofNat_of_toNat_eq hlen, List.append_assoc]⟩
    · obtain ⟨body, hlen, rfl, rfl⟩ := decodeRsp_eq_ok.mp htail
      have hlt := len.isLt
      exact .inr ⟨body, by omega, rfl, by rw [rspBytes_eq, ofNat_of_toNat_eq hlen, List.append_assoc]⟩
  · rintro (⟨pd, hpd, rfl, rfl⟩ | ⟨body, hbody, rfl, rfl⟩)
    · rw [cmdBytes_eq, List.append_assoc, decode_cmdHeader]
      exact decodeCmd_eq_ok.mpr ⟨pd, lenByte_toNat hpd, rfl, rfl⟩
    · rw [rspBytes_eq, List.append_assoc, decode_rspHeader]
      exact decodeRsp_eq_ok.mpr ⟨body, by rw [BitVec.toNat_ofNat]; omega, rfl, rfl⟩

theorem decode_cmdBytes (hpd : pd.length ≤ 254) (rest : List Byte) :
    decode (cmdBytes pd ++ rest) = .ok (cmdKind pd) rest :=
  decode_eq_ok.mpr (.inl ⟨pd, hpd, rfl, rfl⟩)

theorem decode_rspBytes (hbody : body.length ≤ 255) (rest : List Byte) :
    decode (rspBytes body ++ rest) = .ok (rspKind body) rest :=
  decode_eq_ok.mpr (.inr ⟨body, hbody, rfl, rfl⟩)

/-! The kind of a frame (log 15): it is well formed, it keeps the bytes, and a well-formed frame is of its own kind. -/

theorem encode_cmdKind (pd : List Byte) : encode (cmdKind pd) = some (cmdBytes pd) := by
  unfold cmdKind
  split
  · next h => rw [h]; rfl
  · rfl

theorem cmdKind_wf (hpd : pd.length ≤ 254) : (cmdKind pd).wf = true := by
  unfold cmdKind
  split
  · rfl
  · next h => simp [Instr.wf, h, Config.cmdMax, hpd]

/-- `GETFW_RSP` is the kind of the bodies with the tag, three more payload bytes and a `DCS` (R79). -/
theorem rspKind_cases (body : List Byte) :
    (∃ ic ver rev dcs more, body = 0x03 :: ic :: ver :: rev :: dcs :: more ∧
      rspKind body = .getfwRsp ic ver rev (dcs :: more)) ∨
    (isGetfwBody body = false ∧ rspKind body = .rspFrame body) := by
  unfold rspKind
  split
  · next tag ic ver rev dcs more =>
    split
    · next htag => subst htag; exact .inl ⟨ic, ver, rev, dcs, more, rfl, rfl⟩
    · next htag => exact .inr ⟨by simp [isGetfwBody, htag], rfl⟩
  · next hshort =>
    refine .inr ⟨?_, rfl⟩
    rcases body with _ | ⟨tag, _ | ⟨ic, _ | ⟨ver, _ | ⟨rev, _ | ⟨dcs, more⟩⟩⟩⟩⟩
    case cons.cons.cons.cons.cons => exact absurd rfl (hshort tag ic ver rev dcs more)
    all_goals simp [isGetfwBody, Config.fwPlenMin]

theorem encode_rspKind (body : List Byte) : encode (rspKind body) = some (rspBytes body) := by
  rcases rspKind_cases body with ⟨ic, ver, rev, dcs, more, rfl, hkind⟩ | ⟨-, hkind⟩ <;> rw [hkind] <;> rfl

theorem rspKind_wf (hbody : body.length ≤ 255) : (rspKind body).wf = true := by
  rcases rspKind_cases body with ⟨ic, ver, rev, dcs, more, rfl, hkind⟩ | ⟨hbodyKind, hkind⟩
  · rw [hkind]
    simp only [List.length_cons] at hbody
    simp [Instr.wf]
    omega
  · rw [hkind]
    simp [Instr.wf, hbody, hbodyKind]

theorem rspKind_of_not_getfw (h : isGetfwBody body = false) : rspKind body = .rspFrame body := by
  rcases rspKind_cases body with ⟨ic, ver, rev, dcs, more, rfl, -⟩ | ⟨-, hkind⟩
  · simp [isGetfwBody, Config.fwPlenMin, Config.tagGetfw] at h
  · exact hkind

/-- The payload bytes are followed by at least the `DCS`, so a well-formed `GETFW_RSP` is of its own kind. -/
theorem rspKind_getfw {ic ver rev : Byte} (h : rest ≠ []) :
    rspKind (Config.tagGetfw :: ic :: ver :: rev :: rest) = .getfwRsp ic ver rev rest := by
  obtain ⟨dcs, more, rfl⟩ := List.exists_cons_of_ne_nil h
  simp [rspKind]

end

/-- Settles O42: each frame kind's bytes decode to the kind of its payload or body, which for a well-formed frame is the
frame itself. -/
theorem decodeEncodeRoundTrip : Obligations.DecodeEncodeRoundTrip := by
  intro i bs rest hwf hbs
  cases i with
  | build | emit | parse | tryStep | getfw => cases hbs
  | cmdFrame pd =>
    cases hbs
    obtain ⟨hlen, hpd⟩ : pd.length ≤ Config.cmdMax ∧ pd ≠ [Config.cmdGetfw] := by simpa [Instr.wf] using hwf
    rw [decode_cmdBytes hlen, cmdKind, if_neg hpd]
  | getfwCmd =>
    cases hbs
    exact decode_cmdBytes (pd := [Config.cmdGetfw]) (by decide) rest
  | rspFrame body =>
    cases hbs
    obtain ⟨hlen, hbody⟩ : body.length ≤ 255 ∧ isGetfwBody body = false := by simpa [Instr.wf] using hwf
    rw [decode_rspBytes hlen, rspKind_of_not_getfw hbody]
  | getfwRsp ic ver rev more =>
    cases hbs
    obtain ⟨hpos, hlen⟩ : 1 ≤ more.length ∧ more.length ≤ 251 := by simpa [Instr.wf] using hwf
    rw [decode_rspBytes (by simp only [List.length_cons]; omega), rspKind_getfw (List.ne_nil_of_length_pos hpos)]

/-- Settles O43: the decoder takes the bytes of a command or response frame and answers its kind. -/
theorem decodedBytesAreTheEncoding : Obligations.DecodedBytesAreTheEncoding := by
  intro bs rest i h
  rcases decode_eq_ok.mp h with ⟨pd, hpd, rfl, rfl⟩ | ⟨body, hbody, rfl, rfl⟩
  · exact ⟨cmdKind_wf hpd, _, encode_cmdKind pd, rfl⟩
  · exact ⟨rspKind_wf hbody, _, encode_rspKind body, rfl⟩

/-- Settles O44: five words, computed. -/
theorem writtenOutFramesDecode : Obligations.WrittenOutFramesDecode := by
  unfold Obligations.WrittenOutFramesDecode
  decide

/-- What `BUILD` writes is the command frame's encoding (R79, R107). -/
theorem buildFrame_eq_cmdBytes (c : List Byte) : buildFrame c = cmdBytes c := by
  rw [buildFrame_eq, cmdBytes_eq, List.append_assoc]
  rfl

/-- Settles O45: the built frame is the encoding of the kind of its command. -/
theorem buildOutputIsACommandFrame : Obligations.BuildOutputIsACommandFrame := by
  intro c rest s hs hc
  have hbuilt := buildFrame_eq_cmdBytes c
  exact ⟨_, buildFrame c, exec_build_of_fits hs hc, rfl, hbuilt ▸ encode_cmdKind c, hbuilt ▸ decode_cmdBytes hc rest⟩

end Sys2Proof.Machine
end

section
/-! The micro-step `EMIT` (spec/40_frame_builder.md R111): what it writes at each offset, and its run from the start action
(R112). -/

namespace Sys2Proof.Machine

section
variable {s t : State} {cmd txf : List Byte} {l k : Nat} {acc acc' b : Byte}

/-- An `EMIT` whose registers hold values and whose offset is the length of `TXF` goes on: the converse of `execEmit_next`. -/
theorem execEmit_eq (hb : s.enc.estat = .busy) (hk : s.enc.eidx = some k) (hl : s.enc.clen = some l)
    (hc : s.enc.cmd = some cmd) (ha : s.enc.acc = some acc) (ht : s.enc.txf = some txf)
    (hemit : emitByte cmd l acc k = some (b, acc')) (hlen : k = txf.length) :
    execEmit s = .next (s.withEnc (s.enc.emitted l k acc' (txf ++ [b]))) := by
  have happ : memAppend txf k b = some (txf ++ [b]) := memAppend_eq_some.mpr ⟨hlen, rfl⟩
  simp [execEmit, whenEncBusy, hb, hk, hl, hc, ha, ht, hemit, happ]

/-- `EMIT` is a function of `ENC`: it runs the same in every state with that `ENC`, and writes nothing else. -/
theorem execEmit_congr {s' : State} (he : s'.enc = s.enc) (h : execEmit s = .next t) :
    execEmit s' = .next (s'.withEnc t.enc) := by
  obtain ⟨hb, k, l, cmd, acc, txf, b, acc', hk, hl, hc, ha, ht, hemit, hlen, rfl⟩ := execEmit_next h
  rw [← he] at hb hk hl hc ha ht
  rw [execEmit_eq hb hk hl hc ha ht hemit hlen, he, State.withEnc_enc]

theorem execEmit_eq_withEnc (h : execEmit s = .next t) : t = s.withEnc t.enc :=
  Host.Outcome.next.inj (h.symm.trans (execEmit_congr rfl h))

theorem exec_emit_not_busy (hs : s.enc.estat ≠ .busy) : exec .emit s = .refused .encNotBusy := if_neg hs

end

/-! The byte at each offset, and the running sum behind it (R111). -/

section
variable (c : List Byte) (a : Byte)

theorem emitByte_payload {b : Byte} {k : Nat} (h6 : 6 ≤ k) (hk : k ≤ 5 + c.length) (hb : memRead c (k - 6) = some b) :
    emitByte c c.length a k = some (b, add8 a b) := by
  rw [emitByte, if_neg (by omega), if_neg (by omega), if_neg (by omega), if_neg (by omega), if_neg (by omega),
    if_neg (by omega), if_pos hk, hb]
  rfl

theorem emitByte_dcs : emitByte c c.length a (6 + c.length) = some (neg8 a, a) := by
  rw [emitByte, if_neg (by omega), if_neg (by omega), if_neg (by omega), if_neg (by omega), if_neg (by omega),
    if_neg (by omega), if_neg (by omega), if_pos rfl]

theorem emitByte_postamble : emitByte c c.length a (7 + c.length) = some (0x00, a) := by
  rw [emitByte, if_neg (by omega), if_neg (by omega), if_neg (by omega), if_neg (by omega), if_neg (by omega),
    if_neg (by omega), if_neg (by omega), if_neg (by omega), if_pos rfl]
  rfl

end

/-- The offsets of a frame: the header's six, the payload's, the `DCS`, the postamble (R70). -/
theorem frameOffset_cases {k l : Nat} (hk : k ≤ 7 + l) : k ≤ 5 ∨ (6 ≤ k ∧ k ≤ 5 + l) ∨ k = 6 + l ∨ k = 7 + l := by
  omega

/-- What R111 says of the byte `b` appended at offset `k` and of `ACC` behind it. -/
def EmitsAt (c : List Byte) (a : Byte) (k : Nat) (b a' : Byte) : Prop :=
  (k = 0 → b = 0x00 ∧ a' = a) ∧
  (k = 1 → b = 0x00 ∧ a' = a) ∧
  (k = 2 → b = 0xFF ∧ a' = a) ∧
  (k = 3 → b = BitVec.ofNat 8 (c.length + 1) ∧ a' = a) ∧
  (k = 4 → b = neg8 (BitVec.ofNat 8 (c.length + 1)) ∧ a' = a) ∧
  (k = 5 → b = 0xD4 ∧ a' = add8 a 0xD4) ∧
  (6 ≤ k → k ≤ 5 + c.length → memRead c (k - 6) = some b ∧ a' = add8 a b) ∧
  (k = 6 + c.length → b = neg8 a ∧ a' = a) ∧
  (k = 7 + c.length → b = 0x00 ∧ a' = a)

theorem emitByte_emitsAt (c : List Byte) (a : Byte) {k : Nat} (hk : k ≤ 7 + c.length) :
    ∃ b a', emitByte c c.length a k = some (b, a') ∧ EmitsAt c a k b a' := by
  rcases frameOffset_cases hk with hheader | ⟨h6, h5⟩ | rfl | rfl
  · interval_cases k
    all_goals
      refine ⟨_, _, rfl, ?_⟩
      unfold EmitsAt
      and_intros <;> grind [Config.preamble, Config.start0, Config.start1, Config.tfiH2D]
  · have hb := memRead_of_lt (show k - 6 < c.length by omega)
    exact ⟨_, _, emitByte_payload c a h6 h5 hb, by unfold EmitsAt; and_intros <;> grind⟩
  · exact ⟨_, _, emitByte_dcs c a, by unfold EmitsAt; and_intros <;> grind⟩
  · exact ⟨_, _, emitByte_postamble c a, by unfold EmitsAt; and_intros <;> grind⟩

/-- Settles O15: the byte and the sum by the offset; `ESTAT` is `E_BUSY` until the last. -/
theorem emitAppendsNextFrameByte : Obligations.EmitAppendsNextFrameByte := by
  refine ⟨fun s c x a k hb hc hl _ ha hk hle hx hlen => ?_, fun s hs => exec_emit_not_busy hs⟩
  obtain ⟨b, a', hemit, hspec⟩ := emitByte_emitsAt c a hle
  refine ⟨b, a', ?_, hspec⟩
  refine (execEmit_eq hb hk hl hc ha hx hemit hlen.symm).trans ?_
  rw [Enc.emitted, hb]
  rfl

/-- Settles O16: `TXF` grows by one byte at `EIDX`, and `EMIT` writes `ENC` only. -/
theorem emitChangesOneByteOfTxf : Obligations.EmitChangesOneByteOfTxf := by
  intro s t h
  obtain ⟨-, k, l, cmd, acc, txf, b, acc', hk, -, -, -, ht, -, hlen, rfl⟩ := execEmit_next h
  exact ⟨rfl, rfl, rfl, rfl, rfl, k, txf, txf ++ [b], hk, ht, rfl, fun a ha => memRead_append_ne (hlen ▸ ha)⟩

/-! The run of `EMIT` steps (R112). -/

section
variable {c : List Byte} {k : Nat}

/-- `ACC` holds the sum of the bytes from the `TFI` on as far as they have been emitted, the command's last one being the
last summed (R25). -/
def accAt (c : List Byte) (k : Nat) : Byte := sum8 ((Config.tfiH2D :: c).take (k - 5))

theorem accAt_all (h : 6 + c.length ≤ k) : accAt c k = sum8 (0xD4 :: c) := by
  rw [accAt, List.take_of_length_le (by simp only [List.length_cons]; omega)]
  rfl

theorem accAt_payload {j : Nat} {b : Byte} (hb : memRead c j = some b) :
    accAt c (6 + j + 1) = add8 (accAt c (6 + j)) b := by
  obtain ⟨hj, rfl⟩ := List.getElem?_eq_some_iff.mp hb
  rw [accAt, accAt, show 6 + j + 1 - 5 = (j + 1) + 1 by omega, show 6 + j - 5 = j + 1 by omega, List.take_succ_cons,
    List.take_succ_cons, List.take_succ_eq_append_getElem hj, ← List.cons_append, sum8_snoc]

/-- The byte `EMIT` appends in the middle of `BUILD C` is the next one of the frame, and the sum stays the sum of what has
been emitted. -/
theorem emitByte_accAt (hk : k ≤ 7 + c.length) :
    ∃ b, emitByte c c.length (accAt c k) k = some (b, accAt c (k + 1)) ∧ (buildFrame c)[k]? = some b := by
  rcases frameOffset_cases hk with hheader | ⟨h6, h5⟩ | rfl | rfl
  · interval_cases k <;> exact ⟨_, rfl, rfl⟩
  · obtain ⟨j, rfl⟩ : ∃ j, k = 6 + j := ⟨k - 6, by omega⟩
    have hj : j < c.length := by omega
    have hb := memRead_of_lt hj
    rw [accAt_payload hb]
    exact ⟨_, emitByte_payload c _ h6 h5 (by rwa [Nat.add_sub_cancel_left]), (memRead_buildFrame_payload c hj).trans hb⟩
  · rw [accAt_all (Nat.le_refl _), accAt_all (Nat.le_succ _)]
    exact ⟨_, emitByte_dcs c _, buildFrame_getElem?_dcs c⟩
  · rw [accAt_all (by omega), accAt_all (by omega)]
    exact ⟨_, emitByte_postamble c _, buildFrame_getElem?_postamble c⟩

/-- `ENC` with `k` bytes of the frame of `C` emitted: the last one completes the `BUILD`. -/
def Enc.emittingAt (c : List Byte) (k : Nat) : Enc := if k = 8 + c.length then Enc.built c else Enc.busyAt c k

theorem Enc.emittingAt_of_lt (hk : k < 8 + c.length) : Enc.emittingAt c k = Enc.busyAt c k := if_neg (Nat.ne_of_lt hk)

theorem Enc.emittingAt_all (c : List Byte) : Enc.emittingAt c (8 + c.length) = Enc.built c := if_pos rfl

theorem Enc.started_eq_busyAt (c : List Byte) : Enc.started c = Enc.busyAt c 0 := rfl

/-- An `EMIT` in the middle of `BUILD C` (R24, R25, R27, R111). -/
theorem Enc.emitted_busyAt {b : Byte} (hk : k ≤ 7 + c.length) (hbyte : (buildFrame c)[k]? = some b) :
    (Enc.busyAt c k).emitted c.length k (accAt c (k + 1)) ((buildFrame c).take k ++ [b]) = Enc.emittingAt c (k + 1) := by
  obtain ⟨hlt, rfl⟩ := List.getElem?_eq_some_iff.mp hbyte
  rw [← List.take_succ_eq_append_getElem hlt]
  by_cases hlast : k = 7 + c.length
  · subst hlast
    rw [accAt_all (by omega), List.take_of_length_le (by rw [buildFrame_length]; omega), Enc.emittingAt,
      if_pos (by omega), Enc.emitted, if_pos rfl, show 7 + c.length + 1 = c.length + 8 by omega]
    rfl
  · rw [Enc.emittingAt_of_lt (by omega), Enc.emitted, if_neg hlast]
    rfl

theorem execEmit_busyAt {s : State} (hk : k ≤ 7 + c.length) (hs : s.enc = Enc.busyAt c k) :
    execEmit s = .next (s.withEnc (Enc.emittingAt c (k + 1))) := by
  obtain ⟨b, hemit, hbyte⟩ := emitByte_accAt hk
  have hlen : k = ((buildFrame c).take k).length := by
    rw [List.length_take, buildFrame_length]
    omega
  rw [← Enc.emitted_busyAt hk hbyte, ← hs]
  exact execEmit_eq (by rw [hs]; rfl) (by rw [hs]; rfl) (by rw [hs]; rfl) (by rw [hs]; rfl) (by rw [hs]; rfl)
    (by rw [hs]; rfl) hemit hlen

end

/-- One more micro-step at the end of a run. -/
theorem runMicro_succ {n : Nat} {i : Instr} {s t : State} (h : runMicro n i s = .next t) :
    runMicro (n + 1) i s = exec i t := by
  induction n generalizing s with
  | zero =>
    cases h
    rw [runMicro]
    cases exec i t <;> rfl
  | succ n ih =>
    rw [runMicro] at h ⊢
    cases hexec : exec i s with
    | next u =>
      rw [hexec] at h
      exact ih h
    | fault r => cases r
    | refused r =>
      rw [hexec] at h
      cases h

/-- After `n` steps from the start action the first `n` bytes have been emitted. -/
theorem runMicro_emit {c : List Byte} {s : State} {n : Nat} (hs : s.enc = Enc.started c) (hn : n ≤ 8 + c.length) :
    runMicro n .emit s = .next (s.withEnc (Enc.emittingAt c n)) := by
  induction n with
  | zero => rw [Enc.emittingAt_of_lt (by omega), ← Enc.started_eq_busyAt, ← hs]; rfl
  | succ n ih =>
    rw [runMicro_succ (ih (by omega))]
    exact execEmit_busyAt (by omega) (Enc.emittingAt_of_lt (by omega))

/-- Settles O17: the start action leaves `ENC` with nothing emitted, and after `L + 8` steps it is as `BUILD` leaves it. -/
theorem emitRunRefinesBuild : Obligations.EmitRunRefinesBuild := by
  refine ⟨fun c s hs hc => ?_, fun c s hs hc =>
    ⟨_, startEnc_of_long _ hs hc, exec_build_of_long hs hc, rfl⟩⟩
  have hrun : ∀ n, n ≤ 8 + c.length →
      runMicro n .emit ((s.withEnc (Enc.started c)).withReply .accepted) =
        .next (((s.withEnc (Enc.started c)).withReply .accepted).withEnc (Enc.emittingAt c n)) :=
    fun n hn => runMicro_emit rfl hn
  refine ⟨_, startEnc_of_fits _ hs hc, fun n hn => ⟨_, hrun n (by omega), ?_⟩, _, hrun (c.length + 8) (by omega), ?_⟩
  · rw [Enc.emittingAt_of_lt (by omega)]
    exact ⟨rfl, rfl, rfl, rfl⟩
  · rw [Nat.add_comm c.length 8, Enc.emittingAt_all]
    exact ⟨exec_build_of_fits hs hc, rfl, rfl, exec_emit_not_busy (by simp)⟩

end Sys2Proof.Machine
end

section
/-! The candidate behind a good header, and what more bytes do to it (spec/41_frame_parser.md R133 to R138, R147). -/

namespace Sys2Proof.Machine

section
variable {b : Buffer} {i n : Nat} {len lcs tfi : Byte} {fw : Firmware}

/-- The six header bytes `00 00 FF LEN LCS TFI` stand at offset `i` (R70). -/
structure HeaderAt (b : Buffer) (i : Nat) (len lcs tfi : Byte) : Prop where
  starts : StartsAt b i
  read_len : b[i + 3]? = some len
  read_lcs : b[i + 4]? = some lcs
  read_tfi : b[i + 5]? = some tfi

/-- A byte read in a slice is a byte of the buffer, within the slice's bounds. -/
theorem getElem?_of_slice {k : Nat} {v : Byte} (h : (slice b i n)[k]? = some v) : i + k < n ∧ b[i + k]? = some v := by
  rw [slice, List.getElem?_take, List.getElem?_drop] at h
  split at h
  · exact ⟨by omega, h⟩
  · cases h

theorem headerAt_of_slice {tail : List Byte} (h : slice b i n = [0x00, 0x00, 0xFF, len, lcs, tfi] ++ tail) :
    HeaderAt b i len lcs tfi ∧ i + 6 ≤ n := by
  have hread : ∀ {k : Nat} {v : Byte}, ([0x00, 0x00, 0xFF, len, lcs, tfi] ++ tail)[k]? = some v →
      i + k < n ∧ b[i + k]? = some v := fun hk => getElem?_of_slice (h ▸ hk)
  exact ⟨⟨⟨(hread (k := 0) rfl).2, (hread (k := 1) rfl).2, (hread (k := 2) rfl).2⟩, (hread (k := 3) rfl).2,
    (hread (k := 4) rfl).2, (hread (k := 5) rfl).2⟩, (hread (k := 5) rfl).1⟩

/-- Behind a header whose length checksum holds, steps 2, 3 and 5 decide (R133 to R137), whatever `n` is. -/
theorem HeaderAt.candidate (h : HeaderAt b i len lcs tfi) (hholds : add8 len lcs = 0x00) (hn : i + 6 ≤ n) :
    candidate b n i =
      if tfi ≠ 0xD5 then .reject .tfi
      else if n < i + 6 + len.toNat then .reject .trunc
      else step5 (len.toNat - 1) (payload b i len.toNat) := by
  have hlcs : ¬ lcsHolds len lcs = false := by rw [lcsHolds_iff.mpr hholds]; decide
  rw [Machine.candidate, if_neg (by omega), readByte_of_some h.starts.preamble, readByte_of_some h.starts.start0,
    readByte_of_some h.starts.start1, if_neg (by decide), afterStart, if_neg (by omega), readByte_of_some h.read_len,
    readByte_of_some h.read_lcs, if_neg hlcs, afterLcs, if_neg (by omega), readByte_of_some h.read_tfi]
  rfl

/-- Step 5 answers the reasons `tag` and `short` only (R136, R137). -/
theorem step5_ne_trunc (plen : Nat) (fd : List Byte) : step5 plen fd ≠ .reject .trunc := by
  have hread : ∀ (k : Nat) {f : Byte → Verdict}, (∀ x, f x ≠ .reject .trunc) → readByte fd k f ≠ .reject .trunc :=
    fun k f hf h => by
      obtain ⟨x, -, hx⟩ := (readByte_eq_iff (by simp) f).mp h
      exact hf x hx
  unfold step5
  split
  · simp
  · refine hread 0 fun tag => ?_
    split
    · simp
    · split
      · simp
      · exact hread 1 fun _ => hread 2 fun _ => hread 3 fun _ => by simp

/-- R138, without an order among the conditions. -/
theorem candidate_accepts_iff : candidate b b.length i = .accept fw ↔
    i + 11 ≤ b.length ∧ b[i]? = some 0x00 ∧ b[i + 1]? = some 0x00 ∧ b[i + 2]? = some 0xFF ∧
      (∃ len lcs : Byte, b[i + 3]? = some len ∧ b[i + 4]? = some lcs ∧ add8 len lcs = 0x00 ∧ 5 ≤ len.toNat ∧
        i + 6 + len.toNat ≤ b.length) ∧
      b[i + 5]? = some 0xD5 ∧ b[i + 6]? = some 0x03 ∧
      b[i + 7]? = some fw.ic ∧ b[i + 8]? = some fw.ver ∧ b[i + 9]? = some fw.rev := by
  rw [candidate_eq_accept]
  constructor
  · rintro ⟨len, lcs, h⟩
    exact ⟨h.eleven_le, h.starts.preamble, h.starts.start0, h.starts.start1,
      ⟨len, lcs, h.read_len, h.read_lcs, h.lcs_holds, h.five_le_len, h.whole⟩, h.tfi, h.tag, h.ic, h.ver, h.rev⟩
  · rintro ⟨-, h0, h1, h2, ⟨len, lcs, hlen, hlcs, hholds, hfive, hwhole⟩, htfi, htag, hic, hver, hrev⟩
    exact ⟨len, lcs, ⟨h0, h1, h2⟩, hlen, hlcs, hholds, htfi, hwhole, hfive, htag, hic, hver, hrev⟩

/-- Settles O20: the bytes of an accepted candidate, and that there is no third answer. -/
theorem candidateAcceptsExactlyWhen : Obligations.CandidateAcceptsExactlyWhen :=
  ⟨fun _ _ _ => candidate_accepts_iff, candidate_cases⟩

/-- More bytes keep an acceptance: every byte it rests on stays, and the frame is still whole (R147). -/
theorem AcceptedAt.append (h : AcceptedAt b n i len lcs fw) (e : List Byte) {n' : Nat} (hn : n ≤ n') :
    AcceptedAt (b ++ e) n' i len lcs fw := by
  have hkeep : ∀ {k : Nat} {v : Byte}, b[k]? = some v → (b ++ e)[k]? = some v := fun hk => by
    rw [List.getElem?_append_left (List.getElem?_eq_some_iff.mp hk).1, hk]
  exact ⟨⟨hkeep h.starts.preamble, hkeep h.starts.start0, hkeep h.starts.start1⟩, hkeep h.read_len, hkeep h.read_lcs,
    h.lcs_holds, hkeep h.tfi, h.whole.trans hn, h.five_le_len, hkeep h.tag, hkeep h.ic, hkeep h.ver, hkeep h.rev⟩

theorem candidate_append_of_accept (h : candidate b b.length i = .accept fw) (e : List Byte) :
    candidate (b ++ e) (b ++ e).length i = .accept fw := by
  obtain ⟨len, lcs, hat⟩ := candidate_eq_accept.mp h
  exact candidate_eq_accept.mpr ⟨len, lcs, hat.append e (by simp)⟩

theorem not_rejectsAt_of_accept (h : candidate b b.length i = .accept fw) : ¬ rejectsAt b i := by
  rintro ⟨why, hrej⟩
  cases h.symm.trans hrej

/-- An accepting offset lies within the buffer. -/
theorem lt_length_of_accept (h : candidate b b.length i = .accept fw) : i < b.length := by
  obtain ⟨len, lcs, hat⟩ := candidate_eq_accept.mp h
  have := hat.eleven_le
  omega

/-- There is a first accepting offset, or every offset is rejected (R139). -/
theorem firstAcceptance_cases (b : Buffer) :
    (∃ i fw, candidate b b.length i = .accept fw ∧ ∀ j, j < i → rejectsAt b j) ∨ ∀ j, j < b.length → rejectsAt b j := by
  classical
  by_cases h : ∃ i fw, candidate b b.length i = .accept fw
  · obtain ⟨fw, hfw⟩ := Nat.find_spec h
    exact .inl ⟨Nat.find h, fw, hfw, fun j hj => (candidate_cases b j).resolve_left (Nat.find_min h hj)⟩
  · exact .inr fun j _ => (candidate_cases b j).resolve_left fun hacc => h ⟨j, hacc⟩

/-- `ParseFrame` answers `Found` exactly where some offset accepts (R140). -/
theorem parseFrame_found_iff : (∃ fw, parseFrame b = .found fw) ↔ ∃ i fw, candidate b b.length i = .accept fw := by
  rcases firstAcceptance_cases b with ⟨i, fw, hacc, hrej⟩ | hrej
  · exact ⟨fun _ => ⟨i, fw, hacc⟩, fun _ => ⟨fw, parseFrame_eq_found (lt_length_of_accept hacc) hacc hrej⟩⟩
  · rw [parseFrame_eq_notFound hrej]
    constructor
    · rintro ⟨fw, ⟨⟩⟩
    · rintro ⟨i, fw, hacc⟩
      exact absurd (hrej i (lt_length_of_accept hacc)) (not_rejectsAt_of_accept hacc)

/-- A response frame one byte short, with a whole one inside its payload. -/
def nestedInTruncated : List Byte :=
  [0x00, 0x00, 0xFF, 0x10, 0xF0, 0xD5, 0x03, 0x01, 0x01, 0x01,
    0x00, 0x00, 0xFF, 0x05, 0xFB, 0xD5, 0x03, 0x02, 0x02, 0x02, 0xF4]

/-- Settles O29: step 3 compares lengths only; an extension keeps each acceptance, but completes the outer frame of the
example, which stands first. -/
theorem truncationAndExtensionOfBuffers : Obligations.TruncationAndExtensionOfBuffers := by
  refine ⟨fun b i len lcs hslice hholds => ?_, fun b e i fw h => candidate_append_of_accept h e, fun b e fw hfound => ?_,
    nestedInTruncated, [0x00], ⟨0x02, 0x02, 0x02⟩, ⟨0x01, 0x01, 0x01⟩, by decide, by decide, by decide⟩
  · obtain ⟨hheader, -⟩ := headerAt_of_slice (tail := []) hslice
    have hlt := (List.getElem?_eq_some_iff.mp hheader.read_tfi).1
    rw [hheader.candidate hholds (by omega), if_neg (not_not.mpr rfl)]
    refine ⟨fun hshort => if_pos (by omega), fun hwhole => ?_⟩
    rw [if_neg (by omega)]
    exact step5_ne_trunc _ _
  · obtain ⟨i, fw', hacc⟩ := parseFrame_found_iff.mp ⟨fw, hfound⟩
    exact parseFrame_found_iff.mpr ⟨i, fw', candidate_append_of_accept hacc e⟩

/-- A length checksum that fails is a rejection, whatever follows (R132). -/
theorem candidate_rejects_lcs (hlcs : add8 len lcs ≠ 0x00) (tail : List Byte) (hn : 5 ≤ n) :
    candidate (0x00 :: 0x00 :: 0xFF :: len :: lcs :: tail) n 0 = .reject .lcs := by
  have hn2 : ¬ n ≤ 2 := by omega
  have hn4 : ¬ n ≤ 4 := by omega
  have hholds : lcsHolds len lcs = false := decide_eq_false hlcs
  simp [candidate, afterStart, readByte, memRead, Config.preamble, Config.start0, Config.start1, hn2, hn4, hholds]

end

/-- Settles O33: the acknowledge, negative acknowledge and extended frames fail at the length checksum, the error frame at
its direction byte. -/
theorem otherProtocolFramesAreRejected : Obligations.OtherProtocolFramesAreRejected := fun r =>
  ⟨candidate_rejects_lcs (by decide) _ (by omega), candidate_rejects_lcs (by decide) _ (by omega),
    candidate_rejects_tfi (by decide) (by decide) _ (by omega), candidate_rejects_lcs (by decide) _ (by omega)⟩

end Sys2Proof.Machine
end

section
/-! The micro-step `TRY` (spec/41_frame_parser.md R143) and its run from the start action (R144). -/

namespace Sys2Proof.Machine

section
variable {s s' t : State} {b : Buffer} {i n : Nat} {fw : Firmware} {why : RejectReason}

theorem applyVerdict_accept (hi : s.dec.scan = some i) : applyVerdict (.accept fw) s = .next (s.withDec (s.dec.accept fw)) := by
  rw [applyVerdict, hi]
  rfl

theorem applyVerdict_reject (hi : s.dec.scan = some i) :
    applyVerdict (.reject why) s = .next (s.withDec { s.dec with scan := some (i + 1) }) := by
  rw [applyVerdict, hi]
  rfl

/-- A `TRY` whose registers hold values: the end of the scan, or the verdict on the candidate (R143). -/
theorem execTry_eq (hb : s.dec.dstat = .busy) (hi : s.dec.scan = some i) (hn : s.dec.rxn = some n)
    (hrxb : s.dec.rxb = some b) :
    execTry s = if n ≤ i then .next (s.withDec s.dec.exhaust) else applyVerdict (candidate b n i) s := by
  rw [execTry, whenDecBusy, if_pos hb, hi, need_some, hn, need_some, hrxb, need_some]

theorem exec_try_not_busy (hs : s.dec.dstat ≠ .busy) : exec .tryStep s = .refused .decNotBusy := if_neg hs

/-- Settles O25: the three cases are the test for the end and the two verdicts. -/
theorem tryMovesAcceptsOrExhausts : Obligations.TryMovesAcceptsOrExhausts := by
  refine ⟨fun s b i hb hrxb hrxn hscan => ?_, fun s hs => exec_try_not_busy hs⟩
  have hrun : exec .tryStep s = _ := execTry_eq hb hscan hrxn hrxb
  have haccept : ∀ fw, i < b.length → candidate b b.length i = .accept fw →
      exec .tryStep s = .next (s.withDec (s.dec.accept fw)) := fun fw hi hacc => by
    rw [hrun, if_neg (by omega), hacc, applyVerdict_accept hscan]
  have hreject : ∀ why, i < b.length → candidate b b.length i = .reject why →
      exec .tryStep s = .next (s.withDec { s.dec with scan := some (i + 1) }) := fun why hi hrej => by
    rw [hrun, if_neg (by omega), hrej, applyVerdict_reject hscan]
  have hend : b.length ≤ i → exec .tryStep s = .next (s.withDec s.dec.exhaust) := fun hi => by rw [hrun, if_pos hi]
  refine ⟨hend, haccept, hreject, ?_⟩
  rcases Nat.lt_or_ge i b.length with hi | hi
  · rcases candidate_cases b i with ⟨fw, hacc⟩ | ⟨why, hrej⟩
    · exact ⟨_, haccept fw hi hacc⟩
    · exact ⟨_, hreject why hi hrej⟩
  · exact ⟨_, hend hi⟩

/-! `TRY` at offset `i` of a scan. -/

theorem execTry_scanning (hs : s.dec = Dec.scanning b i) :
    execTry s = if b.length ≤ i then .next (s.withDec (Dec.scanning b i).exhaust)
      else applyVerdict (candidate b b.length i) s := by
  rw [execTry_eq (i := i) (n := b.length) (b := b) (by rw [hs]; rfl) (by rw [hs]; rfl) (by rw [hs]; rfl) (by rw [hs]; rfl), hs]

theorem execTry_scanning_reject (hs : s.dec = Dec.scanning b i) (hi : i < b.length) (hrej : rejectsAt b i) :
    execTry s = .next (s.withDec (Dec.scanning b (i + 1))) := by
  obtain ⟨why, hrej⟩ := hrej
  rw [execTry_scanning hs, if_neg (by omega), hrej, applyVerdict_reject (i := i) (by rw [hs]; rfl), hs]
  rfl

theorem execTry_scanning_accept (hs : s.dec = Dec.scanning b i) (hacc : candidate b b.length i = .accept fw) :
    execTry s = .next (s.withDec ((Dec.scanning b i).accept fw)) := by
  have hi := lt_length_of_accept hacc
  rw [execTry_scanning hs, if_neg (by omega), hacc, applyVerdict_accept (i := i) (by rw [hs]; rfl), hs]

theorem execTry_scanning_end (hs : s.dec = Dec.scanning b b.length) :
    execTry s = .next (s.withDec (Dec.scanning b b.length).exhaust) := by
  rw [execTry_scanning hs, if_pos (Nat.le_refl _)]

/-- Where the atomic `PARSE` ends: at the first accepting offset, or behind the last one (log 21, log 23). -/
theorem Dec.parsed_of_first (hacc : candidate b b.length i = .accept fw) (hrej : ∀ j, j < i → rejectsAt b j) :
    Dec.parsed b = (Dec.scanning b i).accept fw := by
  have hi := lt_length_of_accept hacc
  rw [Dec.parsed_of_found (parseFrame_eq_found hi hacc hrej), scanFrom_first hi hacc hrej]

theorem Dec.parsed_of_none (hrej : ∀ j, j < b.length → rejectsAt b j) :
    Dec.parsed b = (Dec.scanning b b.length).exhaust := by
  rw [Dec.parsed_of_notFound (parseFrame_eq_notFound hrej), scanFrom_none hrej]

/-- As long as every offset is rejected, `SCAN` counts the steps (R33, R144). -/
theorem runMicro_try (hs : s.dec = Dec.started b) (hn : n ≤ b.length) (hrej : ∀ j, j < n → rejectsAt b j) :
    runMicro n .tryStep s = .next (s.withDec (Dec.scanning b n)) := by
  induction n with
  | zero => rw [← Dec.started_eq_scanning, ← hs]; rfl
  | succ n ih =>
    rw [runMicro_succ (ih (by omega) fun j hj => hrej j (by omega))]
    exact execTry_scanning_reject rfl (by omega) (hrej n (by omega))

/-- The offset at which the scan of `b` ends, and the step of `TRY` there. -/
theorem scanEnd_spec (b : Buffer) : ∃ n, n ≤ b.length ∧ (∀ j, j < n → rejectsAt b j) ∧
    (∀ s : State, s.dec = Dec.scanning b n → execTry s = .next (s.withDec (Dec.parsed b))) ∧
    (∀ i fw, candidate b b.length i = .accept fw → (∀ j, j < i → rejectsAt b j) → n = i) ∧
    ((∀ j, j < b.length → rejectsAt b j) → n = b.length) ∧ (Dec.parsed b).dstat ≠ .busy := by
  rcases firstAcceptance_cases b with ⟨n, fw, hacc, hrej⟩ | hrej
  · have hn := lt_length_of_accept hacc
    rw [Dec.parsed_of_first hacc hrej]
    refine ⟨n, hn.le, hrej, fun s hs => execTry_scanning_accept hs hacc, fun i fw' hacc' hrej' => ?_, fun hall => ?_,
      by simp⟩
    · exact Nat.le_antisymm (Nat.not_lt.mp fun hin => not_rejectsAt_of_accept hacc' (hrej i hin))
        (Nat.not_lt.mp fun hni => not_rejectsAt_of_accept hacc (hrej' n hni))
    · exact absurd (hall n hn) (not_rejectsAt_of_accept hacc)
  · rw [Dec.parsed_of_none hrej]
    refine ⟨b.length, Nat.le_refl _, hrej, fun s hs => execTry_scanning_end hs, fun i fw hacc _ => ?_, fun _ => rfl,
      by simp⟩
    exact absurd (hrej i (lt_length_of_accept hacc)) (not_rejectsAt_of_accept hacc)

end

/-- A start on `DEC` of a buffer within `RX_MAX` is taken (R130). -/
theorem startDec_of_fits {b : List Byte} {s : State} (d : Dec) (hs : s.dec.dstat ≠ .busy)
    (hfits : rxFits s.params b.length = true) : startDec b d s = .next ((s.withDec d).withReply .accepted) := by
  rw [startDec, if_neg hs, if_neg (by simp [hfits])]

/-- Settles O26: the run rejects its way to the end of the scan, and the step there leaves what `PARSE` leaves. -/
theorem tryRunRefinesParse : Obligations.TryRunRefinesParse := by
  intro b s hs hfits
  obtain ⟨n, hn, hrej, hlast, hfirst, hnone, hdone⟩ := scanEnd_spec b
  have hrun : ∀ m, m ≤ n → runMicro m .tryStep ((s.withDec (Dec.started b)).withReply .accepted) =
      .next (((s.withDec (Dec.started b)).withReply .accepted).withDec (Dec.scanning b m)) :=
    fun m hm => runMicro_try rfl (hm.trans hn) fun j hj => hrej j (by omega)
  refine ⟨_, _, n, startDec_of_fits _ hs hfits, hn, fun m hm => ⟨_, hrun m hm, rfl, rfl⟩, ?_, exec_parse_of_fits hs hfits, hdone,
    fun i fw _ => hfirst i fw, hnone⟩
  rw [runMicro_succ (hrun n (Nat.le_refl n))]
  exact hlast _ rfl

end Sys2Proof.Machine
end

section
/-! The frame kinds as `DEC` meets them (spec/30_encoding.md R79, log 3), and their agreement with `TRY` at the offset where
they stand (spec/41_frame_parser.md R143). -/

namespace Sys2Proof.Machine

section
variable {s t : State} {i : Nat} {body : List Byte}

/-- A frame met by a busy parser: the verdict on it is applied. -/
theorem meetFrame_busy {tfi : Byte} (hb : s.dec.dstat = .busy) :
    meetFrame tfi body s = applyVerdict (frameVerdict tfi body) s := if_pos hb

/-- Step 2 rejects every command frame (R115). -/
theorem frameVerdict_cmd (body : List Byte) : frameVerdict 0xD4 body = .reject .tfi := rfl

/-- Step 5 on a whole response frame (R135): the payload is all of its body but the last byte. -/
theorem frameVerdict_rsp (body : List Byte) :
    frameVerdict 0xD5 body = step5 (body.length - 1) (body.take (body.length - 1)) := rfl

/-- A response frame with the tag, three fields and something behind them is accepted (R138, R142). -/
theorem frameVerdict_getfw {ic ver rev : Byte} {rest : List Byte} (h : rest ≠ []) :
    frameVerdict 0xD5 (0x03 :: ic :: ver :: rev :: rest) = .accept ⟨ic, ver, rev⟩ := by
  obtain ⟨dcs, more, rfl⟩ := List.exists_cons_of_ne_nil h
  rw [frameVerdict_rsp, step5_eq_accept]
  simp

/-- A response frame with another tag, or with fewer than four payload bytes, is rejected (R136, R137). -/
theorem frameVerdict_rejects (h : body.length ≤ 4 ∨ body.head? ≠ some 0x03) :
    ∃ why, frameVerdict 0xD5 body = .reject why := by
  rw [frameVerdict_rsp]
  cases hv : step5 (body.length - 1) (body.take (body.length - 1)) with
  | reject why => exact ⟨why, rfl⟩
  | unread => exact absurd hv (step5_ne_unread (by rw [List.length_take]; omega))
  | accept fw =>
    obtain ⟨hplen, htag, -⟩ := step5_eq_accept.mp hv
    rw [List.getElem?_take, if_pos (by omega), ← List.head?_eq_getElem?] at htag
    rcases h with hshort | hother
    · omega
    · exact absurd htag hother

/-! The four kinds as frames met at `SCAN`. -/

theorem exec_cmdKind (pd : List Byte) (s : State) :
    exec (cmdKind pd) s = meetFrame 0xD4 (pd ++ [dcsOf 0xD4 pd]) s := by
  unfold cmdKind
  split
  · next h => rw [h]; rfl
  · rfl

theorem exec_rspKind (body : List Byte) (s : State) : exec (rspKind body) s = meetFrame 0xD5 body s := by
  rcases rspKind_cases body with ⟨ic, ver, rev, dcs, more, rfl, hkind⟩ | ⟨-, hkind⟩ <;> rw [hkind] <;> rfl

/-- Settles O34: both kinds are met as command frames, which step 2 rejects. -/
theorem commandFramesMoveScanOn : Obligations.CommandFramesMoveScanOn := by
  rintro s i f (rfl | ⟨pd, rfl⟩) hb hi <;> exact (meetFrame_busy hb).trans (applyVerdict_reject hi)

/-- Settles O35: the verdict on the frame is a rejection or the acceptance of its fields. -/
theorem responseFrameIsDecidedByItsPayload : Obligations.ResponseFrameIsDecidedByItsPayload := by
  intro s i body hb hi
  have hmeet : exec (.rspFrame body) s = _ := meetFrame_busy hb
  constructor
  · intro h
    obtain ⟨why, hv⟩ := frameVerdict_rejects h
    exact hmeet.trans (hv ▸ applyVerdict_reject hi)
  · rintro ic ver rev dcs more rfl
    have hv := frameVerdict_getfw (ic := ic) (ver := ver) (rev := rev) (List.cons_ne_nil dcs more)
    exact hmeet.trans (hv ▸ applyVerdict_accept hi)

/-- Settles O36: the frame is accepted. -/
theorem firmwareResponseIsReported : Obligations.FirmwareResponseIsReported := by
  intro s i ic ver rev rest hb hi hrest
  have hv := frameVerdict_getfw (ic := ic) (ver := ver) (rev := rev) hrest
  exact (meetFrame_busy hb).trans (hv ▸ applyVerdict_accept hi)

/-- Settles O38: `TRY` and each frame are enabled by `D_BUSY` only. -/
theorem framesNeedABusyParser : Obligations.FramesNeedABusyParser := by
  intro i s hi hs
  cases i with
  | tryStep | cmdFrame | getfwCmd | rspFrame | getfwRsp => exact if_neg hs
  | build | emit | parse | getfw => cases hi

/-- What a micro-step of `DEC` that goes on has done: it accepted, it rejected, or it ended the scan (R143). -/
theorem exec_decMicro_next {f : Instr} (hf : isDecMicro f = true) (h : exec f s = .next t) :
    s.dec.dstat = .busy ∧ ∃ k, s.dec.scan = some k ∧
      ((∃ fw, t = s.withDec (s.dec.accept fw)) ∨ t = s.withDec { s.dec with scan := some (k + 1) } ∨
        t = s.withDec s.dec.exhaust) := by
  have hstep : s.dec.dstat = .busy ∧ ((∃ v, applyVerdict v s = .next t) ∨
      ∃ k, s.dec.scan = some k ∧ t = s.withDec s.dec.exhaust) := by
    cases f with
    | tryStep =>
      obtain ⟨hb, k, n, hk, -, ⟨-, ht⟩ | ⟨-, b, -, hv⟩⟩ := execTry_next h
      · exact ⟨hb, .inr ⟨k, hk, ht⟩⟩
      · exact ⟨hb, .inl ⟨_, hv⟩⟩
    | cmdFrame | getfwCmd | rspFrame | getfwRsp =>
      obtain ⟨hb, hv⟩ := meetFrame_next h
      exact ⟨hb, .inl ⟨_, hv⟩⟩
    | build | emit | parse | getfw => cases hf
  obtain ⟨hb, ⟨v, hv⟩ | ⟨k, hk, ht⟩⟩ := hstep
  · obtain ⟨k, hk, ⟨fw, -, ht⟩ | ⟨why, -, ht⟩⟩ := applyVerdict_next hv
    · exact ⟨hb, k, hk, .inl ⟨fw, ht⟩⟩
    · exact ⟨hb, k, hk, .inr (.inl ht)⟩
  · exact ⟨hb, k, hk, .inr (.inr ht)⟩

/-- A micro-step of `DEC` writes `DEC` only. -/
theorem exec_decMicro_eq_withDec {f : Instr} (hf : isDecMicro f = true) (h : exec f s = .next t) :
    t = s.withDec t.dec := by
  obtain ⟨-, k, -, ⟨fw, rfl⟩ | rfl | rfl⟩ := exec_decMicro_next hf h <;> rfl

/-- Settles O37: an acceptance, a rejection and the end of the scan each write the registers named. -/
theorem decStepsKeepTheBuffer : Obligations.DecStepsKeepTheBuffer := by
  intro f s t hf h
  obtain ⟨hb, k, hk, ⟨fw, rfl⟩ | rfl | rfl⟩ := exec_decMicro_next hf h
  · exact ⟨rfl, rfl, rfl, rfl, rfl, fun hne => absurd rfl hne, fun _ => rfl, fun hbusy => by cases hbusy⟩
  · exact ⟨rfl, rfl, rfl, rfl, rfl, fun _ => ⟨rfl, rfl, rfl⟩, fun hne => absurd hb hne, fun _ => ⟨k, hk, rfl⟩⟩
  · exact ⟨rfl, rfl, rfl, rfl, rfl, fun _ => ⟨rfl, rfl, rfl⟩, fun _ => rfl, fun hbusy => by cases hbusy⟩

theorem onEnc_of_isDecMicro {f : Instr} (hf : isDecMicro f = true) : onEnc f = false := by
  cases f with
  | tryStep | cmdFrame | getfwCmd | rspFrame | getfwRsp => rfl
  | build | emit | parse | getfw => cases hf

/-- Settles O51: the steps write one unit each and ignore the other. -/
theorem microStepsCommute : Obligations.MicroStepsCommute := by
  intro f s t u hf hemit hdec
  have ht := execEmit_eq_withEnc hemit
  have hu := exec_decMicro_eq_withDec hf hdec
  refine ⟨u.withEnc t.enc, ?_, ?_⟩
  · rw [ht]
    exact (exec_ignoresEnc (onEnc_of_isDecMicro hf) s u t.enc hdec).2
  · rw [hu, State.withDec_withEnc, ← ht]
    exact (execEmit_ignoresDec s t u.dec hemit).2

end

/-! A frame that stands at `SCAN`. -/

section
variable {b : Buffer} {i n : Nat}

theorem slice_add (s : List Byte) (a k c : Nat) : slice s (a + k) c = (slice s a c).drop k := by
  rw [slice, slice, List.drop_take, List.drop_drop, Nat.sub_add_eq]

theorem slice_take (s : List Byte) {a p c : Nat} (h : a + p ≤ c) : slice s a (a + p) = (slice s a c).take p := by
  rw [slice, slice, List.take_take, Nat.add_sub_cancel_left, Nat.min_eq_left (by omega)]

theorem slice_append (s : List Byte) {a p c : Nat} (h : a + p ≤ c) :
    slice s a (a + p) ++ slice s (a + p) c = slice s a c := by
  rw [slice_take s h, slice_add, List.take_append_drop]

/-- What stands at an offset ends within the bounds of the slice. -/
theorem length_le_of_slice {l : List Byte} (h : slice b i n = l) : l.length ≤ n - i := by
  rw [← h, slice_length]
  exact Nat.min_le_left ..

theorem candidate_cmdBytes {pd more : List Byte} (h : slice b i n = cmdBytes pd ++ more) :
    i < n ∧ candidate b n i = .reject .tfi := by
  rw [cmdBytes_eq, List.append_assoc] at h
  obtain ⟨hheader, hn⟩ := headerAt_of_slice h
  exact ⟨by omega, by rw [hheader.candidate (add8_neg8_self _) hn, if_pos (by decide)]⟩

/-- At a whole response frame the candidate is decided as the frame is (R79, R135). -/
theorem candidate_rspBytes {body more : List Byte} (hbody : body.length ≤ 255)
    (h : slice b i n = rspBytes body ++ more) : i < n ∧ candidate b n i = frameVerdict 0xD5 body := by
  rw [rspBytes_eq, List.append_assoc] at h
  obtain ⟨hheader, hn⟩ := headerAt_of_slice h
  have hwhole := length_le_of_slice h
  simp only [headerOf, List.length_append, List.length_cons, List.length_nil] at hwhole
  have hlen : (BitVec.ofNat 8 body.length : Byte).toNat = body.length := by
    rw [BitVec.toNat_ofNat]
    omega
  have hpayload : payload b i body.length = body.take (body.length - 1) := by
    rw [payload, slice_take b (c := n) (by omega), slice_add, h]
    exact List.take_append_of_le_length (Nat.sub_le ..)
  refine ⟨by omega, ?_⟩
  rw [hheader.candidate (add8_neg8_self _) hn, if_neg (not_not.mpr rfl), hlen, if_neg (by omega), hpayload,
    frameVerdict_rsp]

/-- Bytes that decode to a frame: running the frame is meeting it, and the candidate there gets the frame's verdict. -/
theorem decoded_frame {f : Instr} {more : List Byte} (h : decode (slice b i n) = .ok f more) :
    i < n ∧ ∃ tfi body, (∀ s, exec f s = meetFrame tfi body s) ∧ candidate b n i = frameVerdict tfi body := by
  rcases decode_eq_ok.mp h with ⟨pd, -, rfl, hslice⟩ | ⟨body, hbody, rfl, hslice⟩
  · obtain ⟨hin, hcand⟩ := candidate_cmdBytes hslice
    exact ⟨hin, _, _, exec_cmdKind pd, hcand.trans (frameVerdict_cmd _).symm⟩
  · obtain ⟨hin, hcand⟩ := candidate_rspBytes hbody hslice
    exact ⟨hin, _, _, exec_rspKind body, hcand⟩

/-- The two views of a step of `DEC` agree, whatever `RXN` is (R143, log 3). -/
theorem exec_decoded_eq_try {s : State} {f : Instr} {more : List Byte} (hrxb : s.dec.rxb = some b)
    (hrxn : s.dec.rxn = some n) (hscan : s.dec.scan = some i) (h : decode (slice b i n) = .ok f more) :
    exec f s = execTry s := by
  obtain ⟨hin, tfi, body, hexec, hcand⟩ := decoded_frame h
  rw [hexec]
  by_cases hb : s.dec.dstat = .busy
  · rw [meetFrame_busy hb, execTry_eq hb hscan hrxn hrxb, if_neg (by omega), hcand]
  · exact (if_neg hb).trans (if_neg hb).symm

/-- Settles O40: the case in which `RXN` is the length of the buffer. -/
theorem fetchedFrameAgreesWithTry : Obligations.FetchedFrameAgreesWithTry :=
  fun _ _ _ _ _ hrxb hrxn hscan h => exec_decoded_eq_try hrxb hrxn hscan h

theorem AcceptedAt.slice_eq {len lcs : Byte} {fw : Firmware} (h : AcceptedAt b b.length i len lcs fw) :
    ∃ rest, 1 ≤ rest.length ∧ rest.length ≤ 251 ∧ slice b i b.length =
      rspBytes (0x03 :: fw.ic :: fw.ver :: fw.rev :: rest) ++ slice b (i + 6 + len.toNat) b.length := by
  have hfive := h.five_le_len
  have hwhole := h.whole
  have hlt := len.isLt
  have hrest : (slice b (i + 10) (i + 6 + len.toNat)).length = len.toNat - 4 := by
    rw [slice_length]
    omega
  have hlen : len.toNat = (0x03 :: fw.ic :: fw.ver :: fw.rev :: slice b (i + 10) (i + 6 + len.toNat)).length := by
    simp only [List.length_cons, hrest]
    omega
  refine ⟨slice b (i + 10) (i + 6 + len.toNat), by omega, by omega, ?_⟩
  have hend : i + 10 + (len.toNat - 4) = i + 6 + len.toNat := by omega
  have hsplit := slice_append b (a := i + 10) (p := len.toNat - 4) (c := b.length) (by omega)
  rw [hend] at hsplit
  rw [h.slice_header (by omega), h.slice_payload (by omega), ← hsplit, rspBytes_eq, ofNat_of_toNat_eq hlen,
    add8_eq_zero_iff.mp h.lcs_holds]
  rfl

/-- Settles O41: an accepted candidate is the encoding of a `GETFW_RSP`, which decodes to it; and a `GETFW_RSP` that stands
at the offset gets the verdict of its frame. -/
theorem acceptedIffFirmwareResponse : Obligations.AcceptedIffFirmwareResponse := by
  intro b i fw
  constructor
  · intro hacc
    obtain ⟨len, lcs, hat⟩ := candidate_eq_accept.mp hacc
    obtain ⟨rest, hpos, hlen, hslice⟩ := hat.slice_eq
    exact ⟨rest, _, hslice ▸ decodeEncodeRoundTrip _ _ _ (by simp [Instr.wf, hpos, hlen]) rfl⟩
  · rintro ⟨rest, more, h⟩
    obtain ⟨hwf, e, he, hslice⟩ := decodedBytesAreTheEncoding _ _ _ h
    cases he
    obtain ⟨hpos, hlen⟩ : 1 ≤ rest.length ∧ rest.length ≤ 251 := by simpa [Instr.wf] using hwf
    rw [(candidate_rspBytes (by simp only [List.length_cons]; omega) hslice).2]
    exact frameVerdict_getfw (List.ne_nil_of_length_pos hpos)

end

end Sys2Proof.Machine
end

section
/-! What one step of the machine can do, said once (spec/00_scope.md section 4; log 2, log 3), and what follows for an
operation in progress and for a result that stands. -/

namespace Sys2Proof.Machine

section
variable {s t : State} {as : List Action}

theorem applyVerdict_congr {v : Verdict} {s' : State} (hd : s'.dec = s.dec) (h : applyVerdict v s = .next t) :
    applyVerdict v s' = .next (s'.withDec t.dec) := by
  obtain ⟨i, hi, ⟨fw, rfl, rfl⟩ | ⟨why, rfl, rfl⟩⟩ := applyVerdict_next h
  · rw [applyVerdict_accept (hd ▸ hi), hd, State.withDec_dec]
  · rw [applyVerdict_reject (hd ▸ hi), hd, State.withDec_dec]

/-- `TRY` is a function of `DEC`: it runs the same in every state with that `DEC`. -/
theorem execTry_congr {s' : State} (hd : s'.dec = s.dec) (h : execTry s = .next t) :
    execTry s' = .next (s'.withDec t.dec) := by
  obtain ⟨hb, i, n, hi, hn, ⟨hni, rfl⟩ | ⟨hin, b, hrxb, hv⟩⟩ := execTry_next h
  · simp [execTry, whenDecBusy, hd, hb, hi, hn, hni]
  · rw [execTry_eq (hd ▸ hb) (hd ▸ hi) (hd ▸ hn) (hd ▸ hrxb), if_neg (by omega)]
    exact applyVerdict_congr hd hv

/-- A fetched frame was decoded at `SCAN`. -/
theorem fetchFrame_eq_some {f : Instr} (h : fetchFrame s = some f) :
    ∃ i n b more, s.dec.scan = some i ∧ s.dec.rxn = some n ∧ s.dec.rxb = some b ∧
      decode (slice b i n) = .ok f more := by
  unfold fetchFrame at h
  split at h
  · next i n b hscan hrxn hrxb =>
    split at h
    · next j more hdecode =>
      cases h
      exact ⟨i, n, b, more, hscan, hrxn, hrxb, hdecode⟩
    · cases h
  · cases h

/-- The turn of a busy `DEC` is the `TRY` step there, also where a frame is fetched (R143, log 3). -/
theorem decTurn_busy (hb : s.dec.dstat = .busy) : decTurn s = execTry s := by
  rw [decTurn, if_pos hb]
  cases hf : fetchFrame s with
  | none => rfl
  | some f =>
    obtain ⟨i, n, b, more, hscan, hrxn, hrxb, hdecode⟩ := fetchFrame_eq_some hf
    exact exec_decoded_eq_try hrxb hrxn hscan hdecode

theorem decTurn_not_busy (hb : s.dec.dstat ≠ .busy) : decTurn s = .next s := if_neg hb

theorem encTurn_busy (hb : s.enc.estat = .busy) : encTurn s = execEmit s := if_pos hb

theorem encTurn_not_busy (hb : s.enc.estat ≠ .busy) : encTurn s = .next s := if_neg hb

theorem step_of_script {a : Action} (h : s.host.script = a :: as) : step s = act a (s.withScript as) := by
  rw [step, h]

theorem step_of_no_script (h : s.host.script = []) : step s = idleTurn s := by
  rw [step, h]

/-- What a step leaves of the two units: nothing done, a micro-step of one unit, a start that its unit takes or refuses, or
a reset. -/
inductive Moves (s t : State) : Prop
  | neither (he : t.enc = s.enc) (hd : t.dec = s.dec)
  | emit {u : State} (h : execEmit s = .next u) (he : t.enc = u.enc) (hd : t.dec = s.dec)
  | tryStep {u : State} (h : execTry s = .next u) (he : t.enc = s.enc) (hd : t.dec = u.dec)
  | startEnc {a : Action} {as : List Action} (hscript : s.host.script = a :: as) (ha : startsEnc a = true)
      (hs : s.enc.estat ≠ .busy)
      (he : t.enc = s.enc.refuse ∨ ∃ c : List Byte, c.length ≤ 254 ∧ (t.enc = Enc.started c ∨ t.enc = Enc.built c))
      (hd : t.dec = s.dec)
  | startDec {a : Action} {as : List Action} (hscript : s.host.script = a :: as) (ha : startsDec a = true)
      (hs : s.dec.dstat ≠ .busy) (he : t.enc = s.enc)
      (hd : ∃ b : List Byte, rxFits s.params b.length = true ∧ (t.dec = Dec.started b ∨ t.dec = Dec.parsed b))
  | reset {as : List Action} (hscript : s.host.script = .reset :: as) (he : t.enc = Enc.reset) (hd : t.dec = Dec.reset)

/-- A step's effect on the units, and that the parameter stays (R41). -/
def StepEffect (s t : State) : Prop := Moves s t ∧ t.params = s.params

theorem StepEffect.of_withReply {r : Reply} (h : t = (s.withScript as).withReply r) : StepEffect s t := by
  subst h
  exact ⟨.neither rfl rfl, rfl⟩

theorem StepEffect.of_encTurn (h : encTurn (s.withScript as) = .next t) : StepEffect s t := by
  rcases encTurn_next h with ⟨-, h⟩ | ⟨-, rfl⟩
  · have ht := execEmit_eq_withEnc h
    exact ⟨.emit (execEmit_congr (s := s.withScript as) (s' := s) rfl h) rfl (by rw [ht]; rfl), by rw [ht]; rfl⟩
  · exact ⟨.neither rfl rfl, rfl⟩

theorem StepEffect.of_decTurn (h : decTurn (s.withScript as) = .next t) : StepEffect s t := by
  by_cases hb : s.dec.dstat = .busy
  · rw [decTurn_busy (s := s.withScript as) hb] at h
    have ht := exec_decMicro_eq_withDec (f := .tryStep) rfl h
    exact ⟨.tryStep (execTry_congr (s := s.withScript as) (s' := s) rfl h) (by rw [ht]; rfl) rfl, by rw [ht]; rfl⟩
  · rw [decTurn_not_busy (s := s.withScript as) hb] at h
    cases h
    exact ⟨.neither rfl rfl, rfl⟩

theorem StepEffect.of_startEnc {a : Action} {c : List Byte} {e : Enc} (hscript : s.host.script = a :: as)
    (ha : startsEnc a = true) (he : e = Enc.started c ∨ e = Enc.built c)
    (h : Machine.startEnc c e (s.withScript as) = .next t) : StepEffect s t := by
  rcases startEnc_cases c e (s.withScript as) with ⟨-, hrun⟩ | ⟨hb, -, hrun⟩ | ⟨hb, hc, hrun⟩
  all_goals rw [hrun] at h; cases h
  · exact ⟨.neither rfl rfl, rfl⟩
  · exact ⟨.startEnc hscript ha hb (.inl rfl) rfl, rfl⟩
  · exact ⟨.startEnc hscript ha hb (.inr ⟨c, hc, he⟩) rfl, rfl⟩

theorem StepEffect.of_startDec {a : Action} {b : List Byte} {d : Dec} (hscript : s.host.script = a :: as)
    (ha : startsDec a = true) (hd : d = Dec.started b ∨ d = Dec.parsed b)
    (h : Machine.startDec b d (s.withScript as) = .next t) : StepEffect s t := by
  rcases startDec_cases b d (s.withScript as) with ⟨-, hrun⟩ | ⟨-, -, hrun⟩ | ⟨hb, hfits, hrun⟩
  all_goals rw [hrun] at h; cases h
  · exact ⟨.neither rfl rfl, rfl⟩
  · exact ⟨.startDec hscript ha hb rfl ⟨b, hfits, hd⟩, rfl⟩

theorem act_effect {a : Action} (hscript : s.host.script = a :: as) (h : act a (s.withScript as) = .next t) :
    StepEffect s t := by
  cases a with
  | build c => exact .of_startEnc hscript rfl (.inr rfl) h
  | getfw => exact .of_startEnc hscript rfl (.inr rfl) h
  | startBuild c => exact .of_startEnc hscript rfl (.inl rfl) h
  | parse b => exact .of_startDec hscript rfl (.inr rfl) h
  | startParse b => exact .of_startDec hscript rfl (.inl rfl) h
  | encTurn => exact .of_encTurn h
  | decTurn => exact .of_decTurn h
  | readEstat | readDstat => cases h; exact .of_withReply rfl
  | readTxf k =>
    obtain ⟨-, f, v, -, -, ht⟩ := readTxf_next h
    exact .of_withReply ht
  | readFrame | readIc | readVer | readRev =>
    obtain ⟨-, v, -, ht⟩ := hostRead_next h
    exact .of_withReply ht
  | collect =>
    obtain ⟨r, ht⟩ := collect_next h
    exact .of_withReply ht
  | reset =>
    cases h
    exact ⟨.reset hscript rfl rfl, rfl⟩

/-- What a step can do. -/
theorem step_effect (h : step s = .next t) : StepEffect s t := by
  cases hscript : s.host.script with
  | nil =>
    rw [step_of_no_script hscript, idleTurn] at h
    split at h
    · exact .of_encTurn (as := s.host.script) h
    · exact .of_decTurn (as := s.host.script) h
  | cons a as =>
    rw [step_of_script hscript] at h
    exact act_effect hscript h

end

/-- Settles O52: a unit that is not busy makes no micro-step, so only a start of its own or a reset writes it. -/
theorem resultsStayUntilTheNextStart : Obligations.ResultsStayUntilTheNextStart := by
  constructor
  · intro s t h hs hstart
    cases (step_effect h).1 with
    | neither he | tryStep _ he | startDec _ _ _ he => exact he
    | emit hemit => exact absurd (execEmit_next hemit).1 hs
    | startEnc hscript ha => cases ha.symm.trans (hstart _ _ hscript)
    | reset hscript => cases hstart _ _ hscript
  · intro s t h hs hstart
    cases (step_effect h).1 with
    | neither _ hd | emit _ _ hd | startEnc _ _ _ _ hd => exact hd
    | tryStep htry => exact absurd (execTry_next htry).1 hs
    | startDec hscript ha => cases ha.symm.trans (hstart _ _ hscript)
    | reset hscript => cases hstart _ _ hscript

/-- Settles O53: a start is not taken while `ENC` is busy. -/
theorem buildInProgressIsNotDisturbed : Obligations.BuildInProgressIsNotDisturbed := by
  intro s t h hb hreset
  cases (step_effect h).1 with
  | neither he | tryStep _ he | startDec _ _ _ he => exact .inl he
  | emit hemit he => exact .inr ⟨_, hemit, he⟩
  | startEnc _ _ hs => exact absurd hb hs
  | reset hscript => exact absurd hscript (hreset _)

/-- Settles O57: a start is not taken while `DEC` is busy, and a fetched frame runs as the `TRY` step. -/
theorem parseInProgressIsNotDisturbed : Obligations.ParseInProgressIsNotDisturbed := by
  intro s t h hb hreset
  cases (step_effect h).1 with
  | neither _ hd | emit _ _ hd | startEnc _ _ _ _ hd => exact .inl hd
  | tryStep htry _ hd => exact .inr ⟨_, htry, hd⟩
  | startDec _ _ hs => exact absurd hb hs
  | reset hscript => exact absurd hscript (hreset _)

/-- Settles O54: no effect of a step writes the parameter. -/
theorem stepKeepsTheParameter : Obligations.StepKeepsTheParameter := fun _ _ h => (step_effect h).2

end Sys2Proof.Machine
end

section
/-! The invariant (spec/10_state.md R24 to R42): it holds after reset, and every effect of a step keeps it. -/

namespace Sys2Proof.Machine

section
variable {c : List Byte} {k : Nat} {e : Enc}

theorem Enc.inv_busyAt (hc : c.length ≤ 254) (hk : k < 8 + c.length) : (Enc.busyAt c k).Inv :=
  ⟨c, k, hc, Nat.add_comm 8 c.length ▸ hk, rfl⟩

theorem Enc.inv_built (hc : c.length ≤ 254) : (Enc.built c).Inv := ⟨c, hc, rfl⟩

theorem Enc.inv_emittingAt (hc : c.length ≤ 254) (hk : k ≤ 8 + c.length) : (Enc.emittingAt c k).Inv := by
  rcases hk.lt_or_eq with hlt | rfl
  · rw [Enc.emittingAt_of_lt hlt]
    exact Enc.inv_busyAt hc hlt
  · rw [Enc.emittingAt_all]
    exact Enc.inv_built hc

theorem Enc.inv_started (hc : c.length ≤ 254) : (Enc.started c).Inv := Enc.inv_busyAt (k := 0) hc (by omega)

/-- A refusal meets `ENC` after reset, after a frame, or after an earlier refusal, and keeps the rest (R109, log 22). -/
theorem Enc.inv_refuse (h : e.Inv) (hs : e.estat ≠ .busy) : e.refuse.Inv := by
  cases hestat : e.estat with
  | busy => exact absurd hestat hs
  | idle =>
    simp only [Enc.Inv, hestat] at h
    exact .inl (by rw [h])
  | done =>
    simp only [Enc.Inv, hestat] at h
    obtain ⟨c, hc, rfl⟩ := h
    exact .inr ⟨c, hc, rfl⟩
  | refused =>
    simp only [Enc.Inv, hestat] at h
    rcases h with rfl | ⟨c, hc, rfl⟩
    · exact .inl rfl
    · exact .inr ⟨c, hc, rfl⟩

/-- In a state of the machine a busy `ENC` emits, and the invariant holds behind it. -/
theorem execEmit_of_inv {s : State} (h : s.enc.Inv) (hb : s.enc.estat = .busy) :
    ∃ e, execEmit s = .next (s.withEnc e) ∧ e.Inv := by
  simp only [Enc.Inv, hb] at h
  obtain ⟨c, k, hc, hk, hs⟩ := h
  have hk' : k < c.length + 8 := hk
  exact ⟨_, execEmit_busyAt (by omega) hs, Enc.inv_emittingAt hc (by omega)⟩

end

section
variable {p : Params} {b : List Byte} {i : Nat}

theorem Dec.inv_scanning (hfits : rxFits p b.length = true) (hi : i ≤ b.length) (hrej : ∀ j, j < i → rejectsAt b j) :
    (Dec.scanning b i).Inv p := ⟨b, i, hfits, hi, hrej, rfl⟩

theorem Dec.inv_started (hfits : rxFits p b.length = true) : (Dec.started b).Inv p :=
  Dec.inv_scanning hfits (Nat.zero_le _) fun j hj => absurd hj (Nat.not_lt_zero j)

theorem Dec.inv_accept {fw : Firmware} (hfits : rxFits p b.length = true) (hrej : ∀ j, j < i → rejectsAt b j)
    (hacc : candidate b b.length i = .accept fw) : ((Dec.scanning b i).accept fw).Inv p :=
  ⟨b, i, fw, hfits, lt_length_of_accept hacc, hrej, hacc, rfl⟩

theorem Dec.inv_exhaust (hfits : rxFits p b.length = true) (hrej : ∀ j, j < b.length → rejectsAt b j) :
    (Dec.scanning b b.length).exhaust.Inv p := ⟨b, hfits, hrej, rfl⟩

theorem Dec.inv_parsed (hfits : rxFits p b.length = true) : (Dec.parsed b).Inv p := by
  rcases firstAcceptance_cases b with ⟨i, fw, hacc, hrej⟩ | hrej
  · rw [Dec.parsed_of_first hacc hrej]
    exact Dec.inv_accept hfits hrej hacc
  · rw [Dec.parsed_of_none hrej]
    exact Dec.inv_exhaust hfits hrej

/-- In a state of the machine a busy `DEC` makes its `TRY`, and the invariant holds behind it. -/
theorem execTry_of_inv {s : State} (h : s.dec.Inv p) (hb : s.dec.dstat = .busy) :
    ∃ d, execTry s = .next (s.withDec d) ∧ d.Inv p := by
  simp only [Dec.Inv, hb] at h
  obtain ⟨b, i, hfits, hi, hrej, hs⟩ := h
  rcases hi.lt_or_eq with hlt | rfl
  · rcases candidate_cases b i with ⟨fw, hacc⟩ | hrejects
    · exact ⟨_, execTry_scanning_accept hs hacc, Dec.inv_accept hfits hrej hacc⟩
    · refine ⟨_, execTry_scanning_reject hs hlt hrejects, Dec.inv_scanning hfits hlt fun j hj => ?_⟩
      rcases (Nat.le_of_lt_succ hj).lt_or_eq with hji | rfl
      · exact hrej j hji
      · exact hrejects
  · exact ⟨_, execTry_scanning_end hs, Dec.inv_exhaust hfits hrej⟩

end

/-- Settles O55: both units are idle and hold no value. -/
theorem resetMeetsTheInvariant : Obligations.ResetMeetsTheInvariant := ⟨rfl, rfl⟩

/-- Settles O56: each effect of a step leaves the unit it writes in a state of the invariant. -/
theorem stepKeepsTheInvariant : Obligations.StepKeepsTheInvariant := by
  rintro s t ⟨henc, hdec⟩ h
  obtain ⟨hmoves, hparams⟩ := step_effect h
  rw [State.Inv, hparams]
  cases hmoves with
  | neither he hd => exact ⟨he ▸ henc, hd ▸ hdec⟩
  | emit hemit he hd =>
    obtain ⟨e, hrun, hinv⟩ := execEmit_of_inv henc (execEmit_next hemit).1
    cases hrun.symm.trans hemit
    exact ⟨he ▸ hinv, hd ▸ hdec⟩
  | tryStep htry he hd =>
    obtain ⟨d, hrun, hinv⟩ := execTry_of_inv hdec (execTry_next htry).1
    cases hrun.symm.trans htry
    exact ⟨he ▸ henc, hd ▸ hinv⟩
  | startEnc _ _ hs he hd =>
    refine ⟨?_, hd ▸ hdec⟩
    rcases he with he | ⟨c, hc, he | he⟩ <;> rw [he]
    · exact Enc.inv_refuse henc hs
    · exact Enc.inv_started hc
    · exact Enc.inv_built hc
  | startDec _ _ _ he hd =>
    refine ⟨he ▸ henc, ?_⟩
    obtain ⟨b, hfits, hd | hd⟩ := hd <;> rw [hd]
    · exact Dec.inv_started hfits
    · exact Dec.inv_parsed hfits
  | reset _ he hd =>
    rw [he, hd]
    exact ⟨rfl, rfl⟩

end Sys2Proof.Machine
end

section
/-! HOST's actions one by one: starts, reads and resets (spec/10_state.md R40, R42; spec/42_transaction.md R173;
spec/70_reset_and_hazards.md R220, R225). -/

namespace Sys2Proof.Machine

/-- Settles O1: `BUILD` and `PARSE` leave what their operand says, whatever was there. -/
theorem resetLeavesUnitsIdleWithoutValues : Obligations.ResetLeavesUnitsIdleWithoutValues := by
  refine ⟨rfl, rfl, rfl, rfl, rfl, rfl, rfl, rfl, rfl, rfl, rfl, rfl, rfl, fun c s hs => ?_, fun b s hs hfits =>
    ⟨_, _, exec_parse_of_fits (s := State.reset) (by decide) rfl, exec_parse_of_fits hs hfits, rfl⟩⟩
  exact buildIsPure.2 c State.reset s (by decide) hs

/-- Settles O2: the reset leaves the units as after reset, where neither is busy. -/
theorem resetAbandonsOperations : Obligations.ResetAbandonsOperations := fun _ _ hscript =>
  ⟨_, step_of_script hscript, rfl, rfl, exec_emit_not_busy (by simp), exec_try_not_busy (by simp)⟩

/-- Settles O6: `BUILD` on either side of the limit. -/
theorem buildLeavesWholeState : Obligations.BuildLeavesWholeState := fun _ _ hs =>
  ⟨exec_build_of_fits hs, exec_build_of_long hs⟩

/-- Settles O11: the refusal leaves `E_REFUSED`, where no `EMIT` is enabled and the next `BUILD` is taken. -/
theorem tooLongCommandLeavesNoFrame : Obligations.TooLongCommandLeavesNoFrame := fun _ _ hs hc =>
  ⟨_, exec_build_of_long hs hc, rfl, rfl, rfl, exec_emit_not_busy (by simp),
    fun _ hd => ⟨_, exec_build_of_fits (by simp) hd, rfl⟩⟩

/-- A buffer beyond a finite `RX_MAX` is refused, whatever the operation would leave (R130, log 8). -/
theorem startDec_of_long {b : List Byte} {m : Nat} {s : State} (d : Dec) (hs : s.dec.dstat ≠ .busy)
    (hmax : s.params.rxMax = some m) (hlong : m < b.length) : startDec b d s = .refused .rxTooLong := by
  rw [startDec, if_neg hs, if_pos]
  simpa [rxFits, hmax] using hlong

/-- Settles O18: a start on `DEC` is taken within the bound and refused beyond it. -/
theorem startParseTakesSnapshot : Obligations.StartParseTakesSnapshot :=
  ⟨fun _ _ hs hfits => ⟨_, startDec_of_fits _ hs hfits, rfl, rfl⟩,
    fun _ _ _ hs hmax hlong => ⟨startDec_of_long _ hs hmax hlong, startDec_of_long _ hs hmax hlong⟩,
    fun p n hmax => by rw [rxFits, hmax]⟩

theorem startEnc_busy {s : State} (c : List Byte) (e : Enc) (hb : s.enc.estat = .busy) :
    startEnc c e s = .next (s.withReply (.declined .busy)) := if_pos hb

theorem startDec_busy {s : State} (b : List Byte) (d : Dec) (hb : s.dec.dstat = .busy) :
    startDec b d s = .next (s.withReply (.declined .busy)) := if_pos hb

/-- Settles O49: the busy test comes first in every start. -/
theorem startWhileBusyHasNoEffect : Obligations.StartWhileBusyHasNoEffect :=
  ⟨fun _ c hb => ⟨startEnc_busy c _ hb, startEnc_busy _ _ hb, startEnc_busy c _ hb⟩,
    fun _ b hb => ⟨startDec_busy b _ hb, startDec_busy b _ hb⟩⟩

/-- Settles O39: HOST's next action is run on the state whose script has moved on, and the turn of a busy `DEC` is the `TRY`
step, which a frame that stands at `SCAN` agrees with. -/
theorem stepRunsTheFetchedFrame : Obligations.StepRunsTheFetchedFrame := by
  have hdecTurn : ∀ {s : State} {as : List Action}, s.host.script = .decTurn :: as → s.dec.dstat = .busy →
      step s = execTry (s.withScript as) := fun {s as} hscript hb =>
    (step_of_script hscript).trans (decTurn_busy (s := s.withScript as) hb)
  have hidle : ∀ {s : State}, s.host.script = [] → s.enc.estat ≠ .busy → step s = decTurn s := fun hscript he =>
    (step_of_no_script hscript).trans (if_neg he)
  refine ⟨fun s as b more i n f hscript hb hrxb hrxn hscan hdecode => ?_,
    fun s b more i n f hscript he hb hrxb hrxn hscan hdecode => ?_, fun s as b i n why hb _ _ _ _ => ?_,
    fun s as c b => ?_, fun s hscript he hd => (hidle hscript he).trans (decTurn_not_busy hd)⟩
  · exact (hdecTurn hscript hb).trans (exec_decoded_eq_try (s := s.withScript as) hrxb hrxn hscan hdecode).symm
  · exact ((hidle hscript he).trans (decTurn_busy hb)).trans (exec_decoded_eq_try hrxb hrxn hscan hdecode).symm
  · exact ⟨fun hscript => hdecTurn hscript hb, fun hscript he => (hidle hscript he).trans (decTurn_busy hb)⟩
  · exact ⟨step_of_script, step_of_script, step_of_script, step_of_script, step_of_script,
      fun hscript hb => (step_of_script hscript).trans (encTurn_busy (s := s.withScript as) hb),
      fun hscript hb => (step_of_script hscript).trans (encTurn_not_busy (s := s.withScript as) hb),
      fun hscript hb => (step_of_script hscript).trans (decTurn_not_busy (s := s.withScript as) hb),
      fun hscript hb => ((step_of_no_script hscript).trans (if_pos hb)).trans (encTurn_busy hb)⟩

section
variable {α : Type} {loc : Loc} {r : Option α} {s : State}

/-- A read under the wrong status is refused, whatever the location holds (R40, log 6). -/
theorem hostRead_not_ready {ready : Prop} [Decidable ready] (h : ¬ ready) (k : α → Reply) :
    hostRead (decide ready) loc r s k = .refused (.noValue loc) := by
  rw [hostRead, decide_eq_false h]
  rfl

/-- A read under the right status delivers the value and changes HOST's answer only. -/
theorem hostRead_ready {ready : Prop} [Decidable ready] (h : ready) {v : α} (hv : r = some v) (k : α → Reply) :
    hostRead (decide ready) loc r s k = .next (s.withReply (k v)) := by
  rw [hostRead, decide_eq_true h, hv]
  rfl

theorem readTxf_not_done (k : Nat) (h : s.enc.estat ≠ .done) : readTxf k s = .refused (.noValue .txf) := if_neg h

theorem readTxf_done {k : Nat} {f : List Byte} {v : Byte} (h : s.enc.estat = .done) (hf : s.enc.txf = some f)
    (hv : f[k]? = some v) : readTxf k s = .next (s.withReply (.byte v)) := by
  have hread : memRead f k = some v := hv
  rw [readTxf, if_pos h, hf, need_some, hread, needIndex_some]

theorem collect_found {fw : Firmware} (h : s.dec.dstat = .found) (hic : s.dec.fwIc = some fw.ic)
    (hver : s.dec.fwVer = some fw.ver) (hrev : s.dec.fwRev = some fw.rev) :
    collect s = .next (s.withReply (.found fw)) := by
  rw [collect, h, hic, hver, hrev]
  rfl

theorem collect_notFound (h : s.dec.dstat = .notFound) : collect s = .next (s.withReply .notFound) := by
  rw [collect, h]

/-- Before a `PARSE` has ended the answer is the status itself (log 19). -/
theorem collect_not_ended (h : s.dec.dstat = .idle ∨ s.dec.dstat = .busy) :
    collect s = .next (s.withReply (.dstat s.dec.dstat)) := by
  rcases h with h | h <;> rw [collect, h]

end

/-- Settles O47: HOST's reads test the status first; a busy unit in a state of the machine makes its micro-step. -/
theorem readsWithoutValueAreRefused : Obligations.ReadsWithoutValueAreRefused := by
  refine ⟨fun s as k hs => ⟨fun hscript => ?_, fun hscript => ?_⟩,
    fun s as hs => ⟨fun hscript => ?_, fun hscript => ?_, fun hscript => ?_⟩, fun s hinv hb => ?_, fun s hinv hb => ?_⟩
  · exact (step_of_script hscript).trans (readTxf_not_done k hs)
  · exact (step_of_script hscript).trans (hostRead_not_ready hs _)
  · exact (step_of_script hscript).trans (hostRead_not_ready hs _)
  · exact (step_of_script hscript).trans (hostRead_not_ready hs _)
  · exact (step_of_script hscript).trans (hostRead_not_ready hs _)
  · obtain ⟨e, hrun, -⟩ := execEmit_of_inv hinv.1 hb
    exact ⟨_, hrun⟩
  · obtain ⟨d, hrun, -⟩ := execTry_of_inv hinv.2 hb
    exact ⟨_, hrun⟩

/-- Settles O48: each read under its status, and the status words and `collect` under every status. -/
theorem readsUnderTheHandshakeDeliver : Obligations.ReadsUnderTheHandshakeDeliver := by
  refine ⟨fun s as f k b hs hf hb => ⟨fun hscript => ?_, fun hscript => ?_⟩,
    fun s as fw hs hic hver hrev => ⟨fun hscript => ?_, fun hscript => ?_, fun hscript => ?_, fun hscript => ?_⟩,
    fun s as => ⟨step_of_script, step_of_script, fun hscript hs => ?_, fun hscript hs => ?_⟩⟩
  · exact (step_of_script hscript).trans (readTxf_done (s := s.withScript as) hs hf hb)
  · exact (step_of_script hscript).trans (hostRead_ready hs hf _)
  · exact (step_of_script hscript).trans (hostRead_ready hs hic _)
  · exact (step_of_script hscript).trans (hostRead_ready hs hver _)
  · exact (step_of_script hscript).trans (hostRead_ready hs hrev _)
  · exact (step_of_script hscript).trans (collect_found (s := s.withScript as) hs hic hver hrev)
  · exact (step_of_script hscript).trans (collect_notFound (s := s.withScript as) hs)
  · exact (step_of_script hscript).trans (collect_not_ended (s := s.withScript as) hs)

end Sys2Proof.Machine
end

section
/-! Program lines read back (spec/30_encoding.md R85, R86; layout: log 16). -/

namespace Sys2Proof.Machine

/-- A digit stands for its value and is none of the characters that separate. -/
theorem hexDigit_spec {n : Nat} (h : n < 16) :
    hexVal (hexDigit n) = some n ∧ hexDigit n ≠ ']' ∧ hexDigit n ≠ ' ' ∧ hexDigit n ≠ ';' := by
  have hall : ∀ m, m < 16 → hexVal (hexDigit m) = some m ∧ hexDigit m ≠ ']' ∧ hexDigit m ≠ ' ' ∧ hexDigit m ≠ ';' := by
    decide
  exact hall n h

theorem pairVal_hexDigits (b : Byte) : pairVal (hexDigit (b.toNat / 16)) (hexDigit (b.toNat % 16)) = some b := by
  have hlt := b.isLt
  rw [pairVal, (hexDigit_spec (by omega)).1, (hexDigit_spec (by omega)).1]
  exact congrArg some (ofNat_of_toNat_eq (by omega))

/-- A pair is read where a space or the bracket follows it. -/
theorem readPairs_hexPair (b : Byte) (sep : Char) (t : List Char) :
    readPairs (hexPair b ++ sep :: t) =
      if sep = ']' then some ([b], t)
      else if sep = ' ' then (readPairs t).map fun p => (b :: p.1, p.2)
      else none := by
  have hlt := b.isLt
  obtain ⟨-, hbracket, hspace, -⟩ := hexDigit_spec (show b.toNat / 16 < 16 by omega)
  rw [hexPair, List.cons_append, List.cons_append, List.nil_append, readPairs.eq_def]
  simp only [if_neg hbracket, if_neg hspace, pairVal_hexDigits]

theorem readPairs_renderPairs (bs : List Byte) (t : List Char) : readPairs (renderPairs bs ++ t) = some (bs, t) := by
  induction bs with
  | nil =>
    rw [renderPairs, List.cons_append, readPairs.eq_def]
    exact if_pos rfl
  | cons b bs ih =>
    cases bs with
    | nil => rw [renderPairs, List.append_assoc]; exact readPairs_hexPair b ']' t
    | cons c bs =>
      rw [renderPairs, List.append_assoc, List.cons_append, readPairs_hexPair, if_neg (by decide), if_pos rfl, ih]
      rfl

/-- No rendered byte list holds the sign of a comment. -/
theorem semicolon_not_mem_renderPairs (bs : List Byte) : ';' ∉ renderPairs bs := by
  have hpair : ∀ b : Byte, ';' ∉ hexPair b := fun b => by
    have hlt := b.isLt
    simp only [hexPair, List.mem_cons, List.not_mem_nil, or_false, not_or]
    exact ⟨(hexDigit_spec (by omega)).2.2.2.symm, (hexDigit_spec (by omega)).2.2.2.symm⟩
  induction bs with
  | nil => decide
  | cons b bs ih =>
    cases bs with
    | nil => simp [renderPairs, hpair]
    | cons c bs => simpa [renderPairs, hpair] using ih

theorem stripWord_append (w t : List Char) : stripWord w (w ++ t) = some t := by
  induction w with
  | nil => rfl
  | cons a w ih => rw [List.cons_append, stripWord, if_pos rfl, ih]

/-- An operand with spaces behind its bracket. -/
theorem readOperand_renderPairs (mk : List Byte → Instr) (bs : List Byte) {t : List Char}
    (ht : t.all (· == ' ') = true) : readOperand mk (renderPairs bs ++ t) = some (mk bs) := by
  rw [readOperand, readPairs_renderPairs]
  exact if_pos ht

/-- The body of a line that begins with no space and holds no comment is the line; with a comment it ends before it. -/
theorem lineBody_eq {a : Char} {l : List Char} (ha : a ≠ ' ') (hl : ';' ∉ a :: l) : lineBody (a :: l) = a :: l := by
  have hnone : ∀ c ∈ a :: l, (c != ';') = true := fun c hc => by
    simp only [bne_iff_ne]
    rintro rfl
    exact hl hc
  rw [lineBody, List.takeWhile_eq_self_iff.mpr hnone, List.dropWhile_cons_of_neg (by simpa using ha)]

theorem lineBody_comment (l comment : List Char) : lineBody (l ++ ';' :: comment) = lineBody l := by
  rw [lineBody, lineBody]
  congr 1
  induction l with
  | nil => rfl
  | cons a l ih => rw [List.cons_append, List.takeWhile_cons, List.takeWhile_cons, ih]

/-- A rendered line begins with its word and holds no comment. -/
theorem renderLine_plain {i : Instr} {l : List Char} (h : renderLine i = some l) :
    ∃ a m, l = a :: m ∧ a ≠ ' ' ∧ ';' ∉ l := by
  cases i with
  | build bs | parse bs =>
    cases h
    refine ⟨_, _, rfl, by decide, ?_⟩
    simp only [List.mem_append, semicolon_not_mem_renderPairs, or_false]
    decide
  | getfw =>
    cases h
    exact ⟨_, _, rfl, by decide, by decide⟩
  | emit | tryStep | cmdFrame | getfwCmd | rspFrame | getfwRsp => cases h

/-- A line whose body is a rendered line and spaces behind it is read as the operation: its word is the first that fits. -/
theorem readLine_of_lineBody {i : Instr} {l line t : List Char} (h : renderLine i = some l)
    (ht : t.all (· == ' ') = true) (hline : lineBody line = l ++ t) : readLine line = some i := by
  cases i with
  | build c =>
    cases h
    rw [List.append_assoc] at hline
    rw [readLine, hline, stripWord_append]
    exact readOperand_renderPairs _ c ht
  | parse b =>
    cases h
    rw [List.append_assoc] at hline
    have hbuild : ∀ u, stripWord buildWord (parseWord ++ u) = none := fun _ => rfl
    rw [readLine, hline, hbuild, stripWord_append]
    exact readOperand_renderPairs _ b ht
  | getfw =>
    cases h
    have hbuild : ∀ u, stripWord buildWord (getfwWord ++ u) = none := fun _ => rfl
    have hparse : ∀ u, stripWord parseWord (getfwWord ++ u) = none := fun _ => rfl
    rw [readLine, hline, hbuild, hparse, stripWord_append]
    exact if_pos ht
  | emit | tryStep | cmdFrame | getfwCmd | rspFrame | getfwRsp => cases h

/-- Settles O46: the body of the line is the line itself, or the line and a space. -/
theorem programLinesReadBack : Obligations.ProgramLinesReadBack := by
  intro i l comment h
  obtain ⟨a, m, rfl, ha, hcomment⟩ := renderLine_plain h
  refine ⟨readLine_of_lineBody h (t := []) rfl ?_, readLine_of_lineBody h (t := [' ']) rfl ?_⟩
  · rw [List.append_nil]
    exact lineBody_eq ha hcomment
  · have hassoc : a :: m ++ ' ' :: ';' :: comment = (a :: (m ++ [' '])) ++ ';' :: comment := by simp
    rw [hassoc, lineBody_comment, lineBody_eq ha (by simpa using hcomment)]
    rfl

end Sys2Proof.Machine
end
